-- ==== Sys2Proof/Word.lean ====
section
/-! DEFINITION. The widths the spec gives the machine's values (00_scope.md R6, 10_state.md R20). -/

namespace Sys2Proof

/-- A memory cell, `CELL` = 8 bits (20_memory.md R51). -/
abbrev Byte := BitVec 8

/-- A general register, `XLEN` = 12 bits (10_state.md R21); also the immediate `NNN`. -/
abbrev Word := BitVec 12

/-- An index slot and a data address, `ALEN` = 16 bits (10_state.md R24); also the immediate `MMMM`. -/
abbrev Addr := BitVec 16

/-- The program counter and a call-stack entry, `PCLEN` = 17 bits (10_state.md R27, R30). -/
abbrev PcWord := BitVec 17

/-- An instruction word of `ILEN` = 3 bytes (30_encoding.md R80). -/
abbrev InstrWord := BitVec 24

/-- The number of a general register, `NREG` = 16 (10_state.md R21). -/
abbrev RegId := Fin 16

/-- The number of an index-bank slot, `NIDX` = 16 (10_state.md R24). -/
abbrev SlotId := Fin 16

/-- One line of input, as the environment supplies it (10_state.md R38). -/
abbrev Line := List Byte

end Sys2Proof
end

