-- ==== Sys2Proof/Syntax.lean ====
section
/-! DEFINITION. The instruction set: one constructor per row of spec/opcode_table.json
(30_encoding.md R91), with the operands the row uses and no raw encoding. -/

namespace Sys2Proof

/-- The 31 instructions of 30_encoding.md R91. `x` and `y` are register numbers, `n` is `NNN`, `k` a slot
number; a 16-bit operand is `MMMM`. -/
inductive Instr where
  /-- HALT: halt with exit code `MMMM` (R110). -/
  | halt (code : BitVec 16)
  /-- LOADI (R120). -/
  | loadi (x : RegId) (n : BitVec 12)
  /-- LDM: batch load of registers `0 .. x` (R121). -/
  | ldm (x : RegId)
  /-- STM: batch store of registers `0 .. x` (R122). -/
  | stm (x : RegId)
  /-- LDB: load one byte (R123). -/
  | ldb (x : RegId)
  /-- STB: store one byte (R124). -/
  | stb (x : RegId)
  /-- SETI: set the current index slot (R130). -/
  | seti (m : BitVec 16)
  /-- JUMP (R111). -/
  | jump (target : BitVec 16)
  /-- PRTZ: print up to a zero byte (R140). -/
  | prtz
  /-- PRTN: print `NNN` bytes (R141). -/
  | prtn (n : BitVec 12)
  /-- PUTC: write the byte `NNN[7:0]` (R142). -/
  | putc (b : BitVec 8)
  /-- PRTD: print one cell in decimal (R143). -/
  | prtd
  /-- INLN: read one line (R144). -/
  | inln
  /-- SKEI: skip if register equals immediate (R112). -/
  | skei (x : RegId) (n : BitVec 12)
  /-- SKNI: skip if register differs from immediate (R113). -/
  | skni (x : RegId) (n : BitVec 12)
  /-- SKER: skip if registers are equal (R114). -/
  | sker (x y : RegId)
  /-- SKNR: skip if registers differ (R115). -/
  | sknr (x y : RegId)
  /-- ADDX: add to the current index slot (R131). -/
  | addx (m : BitVec 16)
  /-- SUBX: subtract from the current index slot (R132). -/
  | subx (m : BitVec 16)
  /-- ADDI (R153). -/
  | addi (x : RegId) (n : BitVec 12)
  /-- SUBI (R154). -/
  | subi (x : RegId) (n : BitVec 12)
  /-- MULI (R155). -/
  | muli (x : RegId) (n : BitVec 12)
  /-- DIVI (R156). -/
  | divi (x : RegId) (n : BitVec 12)
  /-- ADDR (R157). -/
  | addr (x y : RegId)
  /-- SUBR (R158). -/
  | subr (x y : RegId)
  /-- MULR (R159). -/
  | mulr (x y : RegId)
  /-- DIVR (R160). -/
  | divr (x y : RegId)
  /-- COPY (R161). -/
  | copy (x y : RegId)
  /-- CALL (R116). -/
  | call (target : BitVec 16)
  /-- RET (R117). -/
  | ret
  /-- SELX: select index slot `k` (R133). -/
  | selx (k : SlotId)
  deriving DecidableEq, Repr

/-- Why a word or byte sequence is no instruction. -/
inductive DecodeReject where
  /-- `OP` in 0x14 .. 0xFF (30_encoding.md R87). -/
  | illegalOpcode
  /-- A legal `OP` with a sub-case value that has no row (30_encoding.md R88). -/
  | illegalSubcase
  /-- Fewer than the 3 bytes every instruction has (30_encoding.md R80). -/
  | truncated
  deriving DecidableEq, Repr

/-- One row of the opcode map: a word `w` selects it when `w & mask = pattern` (30_encoding.md R91, where
the pattern is called match); `ignored` covers the bits R89 calls ignored. -/
structure OpcodeRow where
  mnemonic : String
  pattern : InstrWord
  mask : InstrWord
  ignored : InstrWord
  deriving DecidableEq, Repr

end Sys2Proof
end

