-- ==== Sys2Proof/Decode.lean ====
section
/-! DEFINITION. The decoder (30_encoding.md R81 to R91), total on every word and every byte sequence, and
after it the encoder, both written from R91. -/

namespace Sys2Proof

/-! ### The word and its fields -/

/-- `w = byte0 ++ byte1 ++ byte2` (30_encoding.md R81). -/
def wordOfBytes (b0 b1 b2 : Byte) : InstrWord := b0 ++ b1 ++ b2

/-- The three bytes of a word, most significant (lowest address) first (30_encoding.md R81). -/
def wordBytes (w : InstrWord) : List Byte :=
  [w.extractLsb' 16 8, w.extractLsb' 8 8, w.extractLsb' 0 8]

/-- `OP = w[23:16]` (30_encoding.md R82). -/
def fieldOP (w : InstrWord) : Byte := w.extractLsb' 16 8

/-- `X = w[15:12]` (30_encoding.md R82). -/
def fieldX (w : InstrWord) : BitVec 4 := w.extractLsb' 12 4

/-- `Y = w[11:8]` (30_encoding.md R82). -/
def fieldY (w : InstrWord) : BitVec 4 := w.extractLsb' 8 4

/-- `MMMM = w[15:0]` (30_encoding.md R82). -/
def fieldMMMM (w : InstrWord) : BitVec 16 := w.extractLsb' 0 16

/-- `NNN = w[11:0]` (30_encoding.md R82). -/
def fieldNNN (w : InstrWord) : BitVec 12 := w.extractLsb' 0 12

/-- `K = w[3:0]` (30_encoding.md R82). -/
def fieldK (w : InstrWord) : BitVec 4 := w.extractLsb' 0 4

/-- A 4-bit field as a register or slot number: all 16 values are valid (10_state.md R21). -/
def nibbleToId (b : BitVec 4) : Fin 16 := ⟨b.toNat, b.isLt⟩

/-- A register or slot number as a 4-bit field. -/
def idToNibble (r : Fin 16) : BitVec 4 := BitVec.ofNat 4 r.val

/-! ### The decoder -/

/-- Opcode 0x02 selects further on `K` (30_encoding.md R86, R88, R91). -/
def decodeTransfer (w : InstrWord) : Except DecodeReject Instr :=
  match (fieldK w).toNat with
  | 0 => .ok (.ldm (nibbleToId (fieldX w)))
  | 1 => .ok (.stm (nibbleToId (fieldX w)))
  | 2 => .ok (.ldb (nibbleToId (fieldX w)))
  | 3 => .ok (.stb (nibbleToId (fieldX w)))
  | _ => .error .illegalSubcase

/-- Opcode 0x05 selects further on `X` (30_encoding.md R86, R88, R91). -/
def decodePrint (w : InstrWord) : Except DecodeReject Instr :=
  match (fieldX w).toNat with
  | 0 => .ok .prtz
  | 1 => .ok (.prtn (fieldNNN w))
  | 2 => .ok (.putc ((fieldNNN w).setWidth 8))
  | 3 => .ok .prtd
  | _ => .error .illegalSubcase

/-- Opcode 0x09 selects further on `K` (30_encoding.md R86, R88, R91). -/
def decodeSkipReg (w : InstrWord) : Except DecodeReject Instr :=
  match (fieldK w).toNat with
  | 0 => .ok (.sker (nibbleToId (fieldX w)) (nibbleToId (fieldY w)))
  | 1 => .ok (.sknr (nibbleToId (fieldX w)) (nibbleToId (fieldY w)))
  | _ => .error .illegalSubcase

/-- Opcode 0x10 selects further on `K` (30_encoding.md R86, R88, R91). -/
def decodeArithReg (w : InstrWord) : Except DecodeReject Instr :=
  match (fieldK w).toNat with
  | 0 => .ok (.addr (nibbleToId (fieldX w)) (nibbleToId (fieldY w)))
  | 1 => .ok (.subr (nibbleToId (fieldX w)) (nibbleToId (fieldY w)))
  | 2 => .ok (.mulr (nibbleToId (fieldX w)) (nibbleToId (fieldY w)))
  | 3 => .ok (.divr (nibbleToId (fieldX w)) (nibbleToId (fieldY w)))
  | 4 => .ok (.copy (nibbleToId (fieldX w)) (nibbleToId (fieldY w)))
  | _ => .error .illegalSubcase

/-- Decoding, a total function from the words to the 31 instructions or a rejection (30_encoding.md R86). -/
def decodeWord (w : InstrWord) : Except DecodeReject Instr :=
  match (fieldOP w).toNat with
  | 0x00 => .ok (.halt (fieldMMMM w))
  | 0x01 => .ok (.loadi (nibbleToId (fieldX w)) (fieldNNN w))
  | 0x02 => decodeTransfer w
  | 0x03 => .ok (.seti (fieldMMMM w))
  | 0x04 => .ok (.jump (fieldMMMM w))
  | 0x05 => decodePrint w
  | 0x06 => .ok .inln
  | 0x07 => .ok (.skei (nibbleToId (fieldX w)) (fieldNNN w))
  | 0x08 => .ok (.skni (nibbleToId (fieldX w)) (fieldNNN w))
  | 0x09 => decodeSkipReg w
  | 0x0A => .ok (.addx (fieldMMMM w))
  | 0x0B => .ok (.subx (fieldMMMM w))
  | 0x0C => .ok (.addi (nibbleToId (fieldX w)) (fieldNNN w))
  | 0x0D => .ok (.subi (nibbleToId (fieldX w)) (fieldNNN w))
  | 0x0E => .ok (.muli (nibbleToId (fieldX w)) (fieldNNN w))
  | 0x0F => .ok (.divi (nibbleToId (fieldX w)) (fieldNNN w))
  | 0x10 => decodeArithReg w
  | 0x11 => .ok (.call (fieldMMMM w))
  | 0x12 => .ok .ret
  | 0x13 => .ok (.selx (nibbleToId (fieldK w)))
  | _ => .error .illegalOpcode

/-- Decoding from bytes: the first three are the instruction, the rest is handed back. -/
def decodeBytes : List Byte → Except DecodeReject (Instr × List Byte)
  | b0 :: b1 :: b2 :: rest =>
    match decodeWord (wordOfBytes b0 b1 b2) with
    | .ok i => .ok (i, rest)
    | .error e => .error e
  | _ => .error .truncated

/-! ### The encoder -/

/-- Format M (30_encoding.md R84). -/
def formatM (op : Byte) (m : BitVec 16) : InstrWord := op ++ m

/-- Format XN (30_encoding.md R84). -/
def formatXN (op : Byte) (x : BitVec 4) (n : BitVec 12) : InstrWord := op ++ x ++ n

/-- Format XK; the ignored bits are 0 (30_encoding.md R84, R89). -/
def formatXK (op : Byte) (x k : BitVec 4) : InstrWord := op ++ x ++ 0#8 ++ k

/-- Format XYK; the ignored bits are 0 (30_encoding.md R84, R89). -/
def formatXYK (op : Byte) (x y k : BitVec 4) : InstrWord := op ++ x ++ y ++ 0#4 ++ k

/-- Format K; the ignored bits are 0 (30_encoding.md R84, R89). -/
def formatK (op : Byte) (k : BitVec 4) : InstrWord := op ++ 0#12 ++ k

/-- Format Z; the ignored bits are 0 (30_encoding.md R84, R89). -/
def formatZ (op : Byte) : InstrWord := op ++ 0#16

/-- The word of an instruction, with 0 in every ignored bit (30_encoding.md R84, R89, R91). -/
def encode : Instr → InstrWord
  | .halt m => formatM 0x00 m
  | .loadi x n => formatXN 0x01 (idToNibble x) n
  | .ldm x => formatXK 0x02 (idToNibble x) 0
  | .stm x => formatXK 0x02 (idToNibble x) 1
  | .ldb x => formatXK 0x02 (idToNibble x) 2
  | .stb x => formatXK 0x02 (idToNibble x) 3
  | .seti m => formatM 0x03 m
  | .jump m => formatM 0x04 m
  | .prtz => formatXN 0x05 0 0
  | .prtn n => formatXN 0x05 1 n
  | .putc b => formatXN 0x05 2 (b.setWidth 12)
  | .prtd => formatXN 0x05 3 0
  | .inln => formatZ 0x06
  | .skei x n => formatXN 0x07 (idToNibble x) n
  | .skni x n => formatXN 0x08 (idToNibble x) n
  | .sker x y => formatXYK 0x09 (idToNibble x) (idToNibble y) 0
  | .sknr x y => formatXYK 0x09 (idToNibble x) (idToNibble y) 1
  | .addx m => formatM 0x0A m
  | .subx m => formatM 0x0B m
  | .addi x n => formatXN 0x0C (idToNibble x) n
  | .subi x n => formatXN 0x0D (idToNibble x) n
  | .muli x n => formatXN 0x0E (idToNibble x) n
  | .divi x n => formatXN 0x0F (idToNibble x) n
  | .addr x y => formatXYK 0x10 (idToNibble x) (idToNibble y) 0
  | .subr x y => formatXYK 0x10 (idToNibble x) (idToNibble y) 1
  | .mulr x y => formatXYK 0x10 (idToNibble x) (idToNibble y) 2
  | .divr x y => formatXYK 0x10 (idToNibble x) (idToNibble y) 3
  | .copy x y => formatXYK 0x10 (idToNibble x) (idToNibble y) 4
  | .call m => formatM 0x11 m
  | .ret => formatZ 0x12
  | .selx k => formatK 0x13 (idToNibble k)

/-- The bytes of an instruction in memory order. -/
def encodeBytes (i : Instr) : List Byte := wordBytes (encode i)

/-! ### The opcode map as data -/

/-- The row of each instruction: the mnemonic, match and mask columns of 30_encoding.md R91 and the ignored
bits of spec/opcode_table.json (R89). -/
def Instr.row : Instr → OpcodeRow
  | .halt _ => ⟨"HALT", 0x000000, 0xFF0000, 0x000000⟩
  | .loadi _ _ => ⟨"LOADI", 0x010000, 0xFF0000, 0x000000⟩
  | .ldm _ => ⟨"LDM", 0x020000, 0xFF000F, 0x000FF0⟩
  | .stm _ => ⟨"STM", 0x020001, 0xFF000F, 0x000FF0⟩
  | .ldb _ => ⟨"LDB", 0x020002, 0xFF000F, 0x000FF0⟩
  | .stb _ => ⟨"STB", 0x020003, 0xFF000F, 0x000FF0⟩
  | .seti _ => ⟨"SETI", 0x030000, 0xFF0000, 0x000000⟩
  | .jump _ => ⟨"JUMP", 0x040000, 0xFF0000, 0x000000⟩
  | .prtz => ⟨"PRTZ", 0x050000, 0xFFF000, 0x000FFF⟩
  | .prtn _ => ⟨"PRTN", 0x051000, 0xFFF000, 0x000000⟩
  | .putc _ => ⟨"PUTC", 0x052000, 0xFFF000, 0x000F00⟩
  | .prtd => ⟨"PRTD", 0x053000, 0xFFF000, 0x000FFF⟩
  | .inln => ⟨"INLN", 0x060000, 0xFF0000, 0x00FFFF⟩
  | .skei _ _ => ⟨"SKEI", 0x070000, 0xFF0000, 0x000000⟩
  | .skni _ _ => ⟨"SKNI", 0x080000, 0xFF0000, 0x000000⟩
  | .sker _ _ => ⟨"SKER", 0x090000, 0xFF000F, 0x0000F0⟩
  | .sknr _ _ => ⟨"SKNR", 0x090001, 0xFF000F, 0x0000F0⟩
  | .addx _ => ⟨"ADDX", 0x0A0000, 0xFF0000, 0x000000⟩
  | .subx _ => ⟨"SUBX", 0x0B0000, 0xFF0000, 0x000000⟩
  | .addi _ _ => ⟨"ADDI", 0x0C0000, 0xFF0000, 0x000000⟩
  | .subi _ _ => ⟨"SUBI", 0x0D0000, 0xFF0000, 0x000000⟩
  | .muli _ _ => ⟨"MULI", 0x0E0000, 0xFF0000, 0x000000⟩
  | .divi _ _ => ⟨"DIVI", 0x0F0000, 0xFF0000, 0x000000⟩
  | .addr _ _ => ⟨"ADDR", 0x100000, 0xFF000F, 0x0000F0⟩
  | .subr _ _ => ⟨"SUBR", 0x100001, 0xFF000F, 0x0000F0⟩
  | .mulr _ _ => ⟨"MULR", 0x100002, 0xFF000F, 0x0000F0⟩
  | .divr _ _ => ⟨"DIVR", 0x100003, 0xFF000F, 0x0000F0⟩
  | .copy _ _ => ⟨"COPY", 0x100004, 0xFF000F, 0x0000F0⟩
  | .call _ => ⟨"CALL", 0x110000, 0xFF0000, 0x000000⟩
  | .ret => ⟨"RET", 0x120000, 0xFF0000, 0x00FFFF⟩
  | .selx _ => ⟨"SELX", 0x130000, 0xFF0000, 0x00FFF0⟩

/-! ### The host's numbering -/

/-- The word of an opcode-table row whose low `nbits` bits are `w`, every bit above them 0. The table
numbers a row as ONE 24-bit word, bit 0 its least significant (spec/opcode_table.json). -/
def tableWord (nbits w : Nat) : InstrWord := BitVec.ofNat 24 (w % 2 ^ nbits)

/-- What the decoder reads from that word, laid out as the hardware stores it: the most significant byte,
the opcode, at the lowest address (20_memory.md R55). -/
def decodeTableWord (nbits w : Nat) : Option Instr :=
  match decodeBytes (wordBytes (tableWord nbits w)) with
  | .ok (i, _) => some i
  | .error _ => none

end Sys2Proof
end

