-- ==== Sys2Proof/Config.lean ====
section
/-! DEFINITION. The parameters of 00_scope.md R6: the launch settings, and the free value `STATUS`. -/

namespace Sys2Proof

/-- `COPY_MASK_BITS` (00_scope.md R6, 44_arithmetic.md R161): 12 by default, 8 for parity with the
original program. -/
inductive CopyMask where
  | twelve
  | eight
  deriving DecidableEq, Repr

/-- The number of low bits COPY keeps. -/
def CopyMask.bits : CopyMask → Nat
  | .twelve => 12
  | .eight => 8

/-- The settings of 00_scope.md R6 that are fixed for a run and that no instruction reads or changes
(70_reset_and_hazards.md R199). State carries them so that one step function covers every setting
(DESIGN CHOICE, notes/assumptions/9.md). -/
structure Config where
  /-- `STACK_CAPACITY`: how many return addresses the call stack holds. -/
  stackCapacity : Nat
  /-- `COPY_MASK_BITS`. -/
  copyMask : CopyMask
  deriving DecidableEq, Repr

/-- The defaults of 00_scope.md R6: capacity 255, 12-bit COPY. -/
def Config.default : Config := ⟨255, .twelve⟩

/-- The constraint 92_eei_decisions.md puts on `STACK_CAPACITY`: at least 1. -/
def Config.wf (c : Config) : Bool := decide (1 ≤ c.stackCapacity)

/-- FREE VALUE (notes/assumptions/10.md): the numbers behind `STATUS(c)`, which the spec leaves OPEN but
pairwise distinct (00_scope.md R6). A permutation of the 16-bit values, applied to a cause's own number:
any pairwise distinct choice of statuses is such a permutation, and every permutation keeps them apart. -/
opaque Config.statusCode : Equiv.Perm (BitVec 16)

end Sys2Proof
end

