-- ==== Sys2Proof/Machine/State.lean ====
section
/-! DEFINITION. The machine's state as plain data (10_state.md R20 to R44), its reset value (R42), and the
reasons a step can stop. -/

namespace Sys2Proof.Machine

/-- Memory: the cells that hold a non-zero byte, addresses strictly rising. An unlisted address reads as 0
(10_state.md R37, "zero-initialized"; 20_memory.md R69). -/
abbrev Memory := List Host.Cell

/-- Why `halted` was set: the eight values of `halt_cause` (10_state.md R34). -/
inductive HaltCause where
  /-- 0: the machine has not halted. -/
  | none
  /-- 1: the HALT instruction. -/
  | haltInstr
  /-- 2: `pc + 3 > 65536` at a boundary. -/
  | fetchEnd
  /-- 3: a word that selects no instruction. -/
  | decodeError
  /-- 4: division by zero. -/
  | runtimeError
  /-- 5: CALL with a full call stack. -/
  | stackOverflow
  /-- 6: RET with an empty call stack. -/
  | stackUnderflow
  /-- 7: an interrupt request observed at a boundary. -/
  | interrupt
  deriving DecidableEq, Repr

/-- The four fatal errors (60_exceptions.md R171 to R174). -/
inductive ErrorKind where
  /-- DecodeError, raised by the step rule. -/
  | decode
  /-- RuntimeError, raised by DIVI and DIVR. -/
  | runtime
  /-- StackOverflow, raised by CALL. -/
  | overflow
  /-- StackUnderflow, raised by RET. -/
  | underflow
  deriving DecidableEq, Repr

/-- The reasons the model has no next state. Neither is an error of the machine: its errors halt it, which
is a next state (60_exceptions.md R170). -/
inductive Fault where
  /-- Raised by the step rule when `halted` is already set: "a state with `halted = 1` has no step"
  (60_exceptions.md R181). SAFE: the machine takes no step there either (notes/assumptions/5.md). -/
  | halted
  /-- Raised by INLN when no line is available and the stream has not ended: INLN has no step until a line
  exists (70_reset_and_hazards.md R197, 93_implementation_defined.md U17); the agent is held, and goes on
  after `State.supplyLine`. SAFE: the machine takes no step there either (notes/assumptions/4.md). -/
  | heldOnInput
  deriving DecidableEq, Repr

/-- The reasons the model answers without a meaning. -/
inductive Refusal where
  /-- An instruction without a meaning in the model; `exec` answers it for no instruction. SAFE. -/
  | notModelled (mnemonic : String)
  /-- Raised by `Launch.run` for an image longer than memory: "the launch is not a launch of this
  hardware" (20_memory.md R69, U18). SAFE: nothing is claimed of such a launch. -/
  | imageTooLong
  deriving DecidableEq, Repr

/-- The state of one interpreter instance, the environment's streams and interrupt levels beside it, and
the settings of the run. -/
structure State where
  /-- General registers `x[0..15]` (R21). -/
  x : Vector Word 16
  /-- Index-bank slots `idx[0..15]` (R24). -/
  idx : Vector Addr 16
  /-- Index-bank selector `sel` (R25). -/
  sel : SlotId
  /-- Program counter `pc` (R27). -/
  pc : PcWord
  /-- The valid call-stack entries `stk[0] .. stk[sp-1]`, oldest first (R30, R31; notes/assumptions/8.md). -/
  stk : List PcWord
  /-- Memory `mem` (R37). -/
  mem : Memory
  /-- Halt flag `halted` (R32). -/
  halted : Bool
  /-- `exit_code` (R33). -/
  exitCode : BitVec 16
  /-- `halt_cause` (R34). -/
  haltCause : HaltCause
  /-- `fault_addr` (R35). -/
  faultAddr : PcWord
  /-- `fault_word` (R35). -/
  faultWord : InstrWord
  /-- ENVIRONMENT. The output stream `OUT`, oldest byte first (R38). -/
  out : List Byte
  /-- ENVIRONMENT. The lines of the input stream `IN` that are available, next one first (R38;
  notes/assumptions/1.md). -/
  inLines : List Line
  /-- ENVIRONMENT. No line will follow `inLines`: end of input, which INLN takes as an empty line
  (43_io.md R144). -/
  inEnded : Bool
  /-- ENVIRONMENT. The levels of `irq` at the coming boundaries, next one first; low once the list is
  exhausted (R39; notes/assumptions/2.md). -/
  irq : List Bool
  /-- The settings of 00_scope.md R6, fixed for the run (notes/assumptions/9.md). -/
  cfg : Config
  deriving DecidableEq, Repr

/-- The machine right after reset with the empty image (R42, 70_reset_and_hazards.md R190, R191), the default
settings and an environment that supplies nothing. Registers, slots, exit code and fault registers: the
spec's decisions D5 and D6 (notes/assumptions/6.md, 7.md); environment: notes/assumptions/3.md. -/
def State.reset : State where
  x := Vector.replicate 16 0
  idx := Vector.replicate 16 0
  sel := 0
  pc := 0
  stk := []
  mem := []
  halted := false
  exitCode := 0
  haltCause := .none
  faultAddr := 0
  faultWord := 0
  out := []
  inLines := []
  inEnded := true
  irq := []
  cfg := Config.default

end Sys2Proof.Machine
end

