-- ==== Sys2Proof/Machine/Ops.lean ====
section
/-! DEFINITION. The named operations over memory, registers, index bank, call stack and streams, and the one
way each exceptional event halts the machine (60_exceptions.md R175 to R179). -/

namespace Sys2Proof.Machine

/-! ### Memory (20_memory.md) -/

/-- One cell; an unlisted address reads as 0 (20_memory.md R60, R69). -/
def Memory.read : Memory → Nat → Byte
  | [], _ => 0
  | (k, v) :: rest, a => if a = k then v else Memory.read rest a

/-- No entry for `a`: the cell reads as 0. -/
def Memory.clear (m : Memory) (a : Nat) : Memory := m.filter fun c => decide (c.1 ≠ a)

/-- A new entry before the first entry with a larger address. -/
def Memory.place : Memory → Nat → Byte → Memory
  | [], a, b => [(a, b)]
  | (k, v) :: rest, a, b =>
    if a < k then (a, b) :: (k, v) :: rest else (k, v) :: Memory.place rest a b

/-- `MemWrite(a, 1, b)` (20_memory.md R54); a zero byte leaves no entry, so the form stays canonical. -/
def Memory.write (m : Memory) (a : Nat) (b : Byte) : Memory :=
  if b = 0 then m.clear a else (m.clear a).place a b

/-- Single-cell writes in the order of the list (20_memory.md R63(c)). -/
def Memory.writeCells (m : Memory) (cells : List Host.Cell) : Memory :=
  cells.foldl (fun m c => m.write c.1 c.2) m

/-- The `n` cells from `a` on, in ascending order. -/
def Memory.readRange (m : Memory) : Nat → Nat → List Byte
  | _, 0 => []
  | a, n + 1 => m.read a :: Memory.readRange m (a + 1) n

/-- `MemRead(a, 3)`, most significant byte first (20_memory.md R54, R55). -/
def Memory.readWord (m : Memory) (a : Nat) : InstrWord :=
  wordOfBytes (m.read a) (m.read (a + 1)) (m.read (a + 2))

/-- Bytes paired with consecutive addresses from `a` on. -/
def cellsFrom : Nat → List Byte → List Host.Cell
  | _, [] => []
  | a, b :: bs => (a, b) :: cellsFrom (a + 1) bs

/-- The Loader's memory: the image from address 0 on, 0 above it (20_memory.md R69). -/
def Memory.ofImage (image : List Byte) : Memory :=
  (cellsFrom 0 image).filter fun c => decide (c.2 ≠ 0)

/-- The canonical form from address `lo` on: addresses strictly rising, inside the 65,536 cells of
20_memory.md R50, and no entry for a zero byte. -/
def Memory.wfFrom : Nat → Memory → Bool
  | _, [] => true
  | lo, (k, v) :: rest =>
    decide (lo ≤ k) && decide (k < 65536) && decide (v ≠ 0) && Memory.wfFrom (k + 1) rest

/-- The canonical form of memory. -/
def Memory.wf (m : Memory) : Bool := Memory.wfFrom 0 m

/-! ### Registers and the index bank (10_state.md) -/

/-- Read of `x[r]` (10_state.md R21, R22). -/
def State.reg (s : State) (r : RegId) : Word := s.x[r]

/-- Write of `x[r]`. -/
def State.setReg (s : State) (r : RegId) (v : Word) : State := { s with x := s.x.set r v }

/-- Write of `x[0] .. x[last]` at once, register `r` with `f r` (41_register_memory.md R121). -/
def State.setRegsUpTo (s : State) (last : RegId) (f : RegId → Word) : State :=
  { s with x := Vector.ofFn fun r => if r ≤ last then f r else s.reg r }

/-- Read of `idx[j]` (10_state.md R24). -/
def State.slot (s : State) (j : SlotId) : Addr := s.idx[j]

/-- The current index `cur = idx[sel]` (10_state.md R26). -/
def State.cur (s : State) : Addr := s.slot s.sel

/-- Write of the selected slot, the only one that can be written (10_state.md R24). -/
def State.setCur (s : State) (v : Addr) : State := { s with idx := s.idx.set s.sel v }

/-- Write of the selector (10_state.md R25). -/
def State.setSel (s : State) (k : SlotId) : State := { s with sel := k }

/-- `pc <- target`. -/
def State.setPc (s : State) (target : PcWord) : State := { s with pc := target }

/-- The advance past one instruction word, 3 bytes: of every fetched instruction (10_state.md R28), and
once more of a taken skip (40_control.md R112). -/
def State.advance (s : State) : State := s.setPc (s.pc + 3)

/-- Replacement of memory. -/
def State.setMem (s : State) (m : Memory) : State := { s with mem := m }

/-! ### The call stack (10_state.md R30, R31) -/

/-- `sp`, the number of valid entries. -/
def State.sp (s : State) : Nat := s.stk.length

/-- Push: write `stk[sp]`, then increment `sp`. -/
def State.pushReturn (s : State) (a : PcWord) : State := { s with stk := s.stk ++ [a] }

/-- The top entry `stk[sp-1]`, if there is one. -/
def State.topReturn (s : State) : Option PcWord := s.stk.getLast?

/-- Pop: decrement `sp`. -/
def State.dropReturn (s : State) : State := { s with stk := s.stk.dropLast }

/-! ### The streams (10_state.md R38) -/

/-- `Out(b)` for each byte in order. -/
def State.emit (s : State) (bs : List Byte) : State := { s with out := s.out ++ bs }

/-- `In()`: the next line and the state without it. End of input is an empty line (43_io.md R144). `none`:
no line is available and the stream has not ended, so the instruction blocks (70_reset_and_hazards.md R197). -/
def State.takeLine (s : State) : Option (Line × State) :=
  match s.inLines with
  | text :: rest => some (text, { s with inLines := rest })
  | [] => if s.inEnded then some ([], s) else none

/-- The environment makes one more line available, between two steps. -/
def State.supplyLine (s : State) (text : Line) : State := { s with inLines := s.inLines ++ [text] }

/-! ### Halting (60_exceptions.md) -/

/-- The encoding of `halt_cause` (10_state.md R34). -/
def HaltCause.code : HaltCause → BitVec 3
  | .none => 0
  | .haltInstr => 1
  | .fetchEnd => 2
  | .decodeError => 3
  | .runtimeError => 4
  | .stackOverflow => 5
  | .stackUnderflow => 6
  | .interrupt => 7

/-- The cause a fatal error records (60_exceptions.md R171 to R174). -/
def ErrorKind.cause : ErrorKind → HaltCause
  | .decode => .decodeError
  | .runtime => .runtimeError
  | .overflow => .stackOverflow
  | .underflow => .stackUnderflow

/-- `STATUS(c)`: a free value, distinct for distinct causes (00_scope.md R6, D13; notes/assumptions/10.md). -/
def statusOf (c : HaltCause) : BitVec 16 := Config.statusCode (c.code.setWidth 16)

/-- `halt_cause`, `exit_code` and `halted` are written together (10_state.md R32 to R34). -/
def State.haltWith (s : State) (c : HaltCause) (code : BitVec 16) : State :=
  { s with halted := true, haltCause := c, exitCode := code }

/-- `raise e`: the fatal-error sequence (60_exceptions.md R175). It runs at dispatch, where `pc = a + 3` and
the word `w` is still at `a` because no error is raised after a write (R176), so `a` and `w` are found
there (DEDUCED, notes/assumptions/11.md). -/
def State.raise (s : State) (e : ErrorKind) : State :=
  State.haltWith
    { s with faultAddr := s.pc - 3, faultWord := s.mem.readWord (s.pc - 3).toNat }
    e.cause (statusOf e.cause)

/-- The implicit halt at the end of memory (60_exceptions.md R178). -/
def State.fetchEndHalt (s : State) : State := s.haltWith .fetchEnd (statusOf .fetchEnd)

/-- The observed interrupt request (60_exceptions.md R179). -/
def State.interruptHalt (s : State) : State := s.haltWith .interrupt 0

/-! ### The instruction boundary (60_exceptions.md R181) -/

/-- The level of `irq` at this boundary (10_state.md R39). -/
def State.irqNow (s : State) : Bool := s.irq.headD false

/-- The boundary is passed: its `irq` level is gone and was not latched (60_exceptions.md R180). -/
def State.passBoundary (s : State) : State := { s with irq := s.irq.tail }

/-- The fetch bound `pc + 3 <= 65536` (20_memory.md R58). -/
def State.fetchable (s : State) : Bool := decide (s.pc.toNat + 3 ≤ 65536)

/-- The fetched word `w = MemRead(pc, 3)` (20_memory.md R55). -/
def State.fetchWord (s : State) : InstrWord := s.mem.readWord s.pc.toNat

/-- The state an instruction's own rule starts from: boundary passed and `pc = a + 3` (10_state.md R28). -/
def State.atDispatch (s : State) : State := s.passBoundary.advance

end Sys2Proof.Machine
end

