-- ==== Sys2Proof/Machine/Operands.lean ====
section
/-! DEFINITION. The operand forms: element addresses, width conversion, the arithmetic of the datapath and
the decimal numeral. -/

namespace Sys2Proof.Machine

/-! ### Addresses (20_memory.md R66, R67) -/

/-- Element `i` of a batch or single transfer is at `(cur + i) mod 65536` (20_memory.md R66). -/
def State.elemAddr (s : State) (i : Fin 16) : Nat := (s.cur + BitVec.ofNat 16 i.val).toNat

/-- How many cells a stream operation may touch: those from `cur` to 65,535 (20_memory.md R67). -/
def State.room (s : State) : Nat := 65536 - s.cur.toNat

/-- The registers `x[0] .. x[last]` of a batch, ascending (41_register_memory.md R121, R122). -/
def regsUpTo (last : RegId) : List RegId := (List.finRange 16).filter fun r => decide (r ≤ last)

/-! ### Width conversion (20_memory.md R68) -/

/-- A load: `zext_12`. -/
def byteToWord (b : Byte) : Word := b.setWidth 12

/-- A store: bits 7 to 0. -/
def wordToByte (v : Word) : Byte := v.setWidth 8

/-- An absolute target as a program counter: `zext_17` (40_control.md R111). -/
def addrToPc (a : Addr) : PcWord := a.setWidth 17

/-! ### Arithmetic on unsigned 12-bit values (44_arithmetic.md R150 to R152) -/

/-- `(p + q) mod 4096`. -/
def aluAdd (p q : Word) : Word := p + q

/-- `(p - q) mod 4096`. -/
def aluSub (p q : Word) : Word := p - q

/-- `(p * q) mod 4096`. -/
def aluMul (p q : Word) : Word := p * q

/-- `p div q` for `q > 0`; `none` for a division by zero, which has no result (44_arithmetic.md R152). -/
def aluDiv (p q : Word) : Option Word := if q = 0 then none else some (p / q)

/-- `v & (2^COPY_MASK_BITS - 1)` (44_arithmetic.md R161). -/
def copyMasked (mask : CopyMask) (v : Word) : Word := v &&& BitVec.ofNat 12 (2 ^ mask.bits - 1)

/-! ### The decimal numeral (43_io.md R143) -/

/-- The ASCII code of a digit, 0x30 to 0x39. -/
def digitByte (d : Nat) : Byte := BitVec.ofNat 8 (0x30 + d)

/-- `decimal(v)`: the shortest numeral, most significant digit first. -/
def decimal (v : Byte) : List Byte :=
  if 100 ≤ v.toNat then
    [digitByte (v.toNat / 100), digitByte (v.toNat / 10 % 10), digitByte (v.toNat % 10)]
  else if 10 ≤ v.toNat then [digitByte (v.toNat / 10), digitByte (v.toNat % 10)]
  else [digitByte v.toNat]

end Sys2Proof.Machine
end

