-- ==== Sys2Proof/Machine/Flags.lean ====
section
/-! DEFINITION. The machine has no flags (10_state.md R36): no condition code is held in State and none is
computed. What takes their place are the conditions of the four skip instructions, each computed from its own
operands. -/

namespace Sys2Proof.Machine

/-- `p = q`, both sides compared in full as unsigned 12-bit values (40_control.md R112, R114). -/
def condEqual (p q : Word) : Bool := decide (p = q)

/-- `p != q` (40_control.md R113, R115). -/
def condDiffer (p q : Word) : Bool := decide (p ≠ q)

/-- `if c then pc <- pc + 3` (40_control.md R112 to R115). -/
def State.skipIf (s : State) (c : Bool) : State := if c then s.advance else s

end Sys2Proof.Machine
end

