-- ==== Sys2Proof/Machine/Arithmetic.lean ====
section
/-! DEFINITION. Arithmetic and register copy: ADDI, SUBI, MULI, DIVI, ADDR, SUBR, MULR, DIVR, COPY
(44_arithmetic.md). -/

namespace Sys2Proof.Machine

/-- `x[r] <- x[r] div q`; a zero divisor raises RuntimeError and leaves the register (44_arithmetic.md R152). -/
def State.divideInto (s : State) (r : RegId) (q : Word) : State :=
  match aluDiv (s.reg r) q with
  | none => s.raise .runtime
  | some v => s.setReg r v

/-- ADDI (44_arithmetic.md R153). -/
def execAddi (x : RegId) (n : BitVec 12) (s : State) : Host.Outcome State Fault Refusal :=
  .next (s.setReg x (aluAdd (s.reg x) n))

/-- SUBI (44_arithmetic.md R154). -/
def execSubi (x : RegId) (n : BitVec 12) (s : State) : Host.Outcome State Fault Refusal :=
  .next (s.setReg x (aluSub (s.reg x) n))

/-- MULI (44_arithmetic.md R155). -/
def execMuli (x : RegId) (n : BitVec 12) (s : State) : Host.Outcome State Fault Refusal :=
  .next (s.setReg x (aluMul (s.reg x) n))

/-- DIVI (44_arithmetic.md R156). -/
def execDivi (x : RegId) (n : BitVec 12) (s : State) : Host.Outcome State Fault Refusal :=
  .next (s.divideInto x n)

/-- ADDR (44_arithmetic.md R157). -/
def execAddr (x y : RegId) (s : State) : Host.Outcome State Fault Refusal :=
  .next (s.setReg x (aluAdd (s.reg x) (s.reg y)))

/-- SUBR (44_arithmetic.md R158). -/
def execSubr (x y : RegId) (s : State) : Host.Outcome State Fault Refusal :=
  .next (s.setReg x (aluSub (s.reg x) (s.reg y)))

/-- MULR (44_arithmetic.md R159). -/
def execMulr (x y : RegId) (s : State) : Host.Outcome State Fault Refusal :=
  .next (s.setReg x (aluMul (s.reg x) (s.reg y)))

/-- DIVR (44_arithmetic.md R160). -/
def execDivr (x y : RegId) (s : State) : Host.Outcome State Fault Refusal :=
  .next (s.divideInto x (s.reg y))

/-- COPY (44_arithmetic.md R161). -/
def execCopy (x y : RegId) (s : State) : Host.Outcome State Fault Refusal :=
  .next (s.setReg x (copyMasked s.cfg.copyMask (s.reg y)))

end Sys2Proof.Machine
end

