-- ==== Sys2Proof/Machine/Control.lean ====
section
/-! DEFINITION. Halt and control transfer: HALT, JUMP, SKEI, SKNI, SKER, SKNR, CALL, RET (40_control.md).
Every meaning starts at dispatch, with `pc = a + 3` (10_state.md R28). -/

namespace Sys2Proof.Machine

/-- HALT (40_control.md R110). -/
def execHalt (code : BitVec 16) (s : State) : Host.Outcome State Fault Refusal :=
  .next (s.haltWith .haltInstr code)

/-- JUMP (40_control.md R111). -/
def execJump (target : BitVec 16) (s : State) : Host.Outcome State Fault Refusal :=
  .next (s.setPc (addrToPc target))

/-- SKEI (40_control.md R112). -/
def execSkei (x : RegId) (n : BitVec 12) (s : State) : Host.Outcome State Fault Refusal :=
  .next (s.skipIf (condEqual (s.reg x) n))

/-- SKNI (40_control.md R113). -/
def execSkni (x : RegId) (n : BitVec 12) (s : State) : Host.Outcome State Fault Refusal :=
  .next (s.skipIf (condDiffer (s.reg x) n))

/-- SKER (40_control.md R114). -/
def execSker (x y : RegId) (s : State) : Host.Outcome State Fault Refusal :=
  .next (s.skipIf (condEqual (s.reg x) (s.reg y)))

/-- SKNR (40_control.md R115). -/
def execSknr (x y : RegId) (s : State) : Host.Outcome State Fault Refusal :=
  .next (s.skipIf (condDiffer (s.reg x) (s.reg y)))

/-- CALL (40_control.md R116): the test precedes every write. -/
def execCall (target : BitVec 16) (s : State) : Host.Outcome State Fault Refusal :=
  if s.sp < s.cfg.stackCapacity then
    .next ((s.pushReturn s.pc).setPc (addrToPc target))
  else .next (s.raise .overflow)

/-- RET (40_control.md R117): the popped entry is used as it is. -/
def execRet (s : State) : Host.Outcome State Fault Refusal :=
  match s.topReturn with
  | none => .next (s.raise .underflow)
  | some p => .next (s.dropReturn.setPc p)

end Sys2Proof.Machine
end

