-- ==== Sys2Proof/Machine/IndexBank.lean ====
section
/-! DEFINITION. Index bank: SETI, ADDX, SUBX, SELX (42_index_bank.md). -/

namespace Sys2Proof.Machine

/-- SETI (42_index_bank.md R130). -/
def execSeti (m : BitVec 16) (s : State) : Host.Outcome State Fault Refusal :=
  .next (s.setCur m)

/-- ADDX (42_index_bank.md R131): modulo 65536. -/
def execAddx (m : BitVec 16) (s : State) : Host.Outcome State Fault Refusal :=
  .next (s.setCur (s.cur + m))

/-- SUBX (42_index_bank.md R132): modulo 65536. -/
def execSubx (m : BitVec 16) (s : State) : Host.Outcome State Fault Refusal :=
  .next (s.setCur (s.cur - m))

/-- SELX (42_index_bank.md R133). -/
def execSelx (k : SlotId) (s : State) : Host.Outcome State Fault Refusal :=
  .next (s.setSel k)

end Sys2Proof.Machine
end

