-- ==== Sys2Proof/Machine/InputOutput.lean ====
section
/-! DEFINITION. Input and output: PRTZ, PRTN, PUTC, PRTD, INLN (43_io.md). -/

namespace Sys2Proof.Machine

/-- PRTZ (43_io.md R140): up to a zero byte, which is not written, or the end of memory. -/
def execPrtz (s : State) : Host.Outcome State Fault Refusal :=
  .next (s.emit ((s.mem.readRange s.cur.toNat s.room).takeWhile fun b => decide (b ≠ 0)))

/-- PRTN (43_io.md R141): `min(NNN, 65536 - cur)` bytes. -/
def execPrtn (n : BitVec 12) (s : State) : Host.Outcome State Fault Refusal :=
  .next (s.emit (s.mem.readRange s.cur.toNat (min n.toNat s.room)))

/-- PUTC (43_io.md R142). -/
def execPutc (b : BitVec 8) (s : State) : Host.Outcome State Fault Refusal :=
  .next (s.emit [b])

/-- PRTD (43_io.md R143). -/
def execPrtd (s : State) : Host.Outcome State Fault Refusal :=
  .next (s.emit (decimal (s.mem.read s.cur.toNat)))

/-- INLN (43_io.md R144): the line verbatim from `cur` on, clipped at 65,535. With no line available there is
no step (70_reset_and_hazards.md R197). -/
def execInln (s : State) : Host.Outcome State Fault Refusal :=
  match s.takeLine with
  | none => .fault .heldOnInput
  | some (text, t) => .next (t.setMem (t.mem.writeCells (cellsFrom t.cur.toNat (text.take t.room))))

end Sys2Proof.Machine
end

