-- ==== Sys2Proof/Machine/Transfer.lean ====
section
/-! DEFINITION. Register load and register-memory transfer: LOADI, LDM, STM, LDB, STB
(41_register_memory.md). -/

namespace Sys2Proof.Machine

/-- LOADI (41_register_memory.md R120). -/
def execLoadi (x : RegId) (n : BitVec 12) (s : State) : Host.Outcome State Fault Refusal :=
  .next (s.setReg x n)

/-- LDM (41_register_memory.md R121). -/
def execLdm (x : RegId) (s : State) : Host.Outcome State Fault Refusal :=
  .next (s.setRegsUpTo x fun r => byteToWord (s.mem.read (s.elemAddr r)))

/-- STM (41_register_memory.md R122). -/
def execStm (x : RegId) (s : State) : Host.Outcome State Fault Refusal :=
  .next (s.setMem (s.mem.writeCells ((regsUpTo x).map fun r => (s.elemAddr r, wordToByte (s.reg r)))))

/-- LDB (41_register_memory.md R123). -/
def execLdb (x : RegId) (s : State) : Host.Outcome State Fault Refusal :=
  .next (s.setReg x (byteToWord (s.mem.read s.cur.toNat)))

/-- STB (41_register_memory.md R124). -/
def execStb (x : RegId) (s : State) : Host.Outcome State Fault Refusal :=
  .next (s.setMem (s.mem.write s.cur.toNat (wordToByte (s.reg x))))

end Sys2Proof.Machine
end

