-- ==== Sys2Proof/Machine/Dispatch.lean ====
section
/-! DEFINITION. Dispatch (60_exceptions.md R181): one arm per instruction. -/

namespace Sys2Proof.Machine

def exec (i : Instr) (s : State) : Host.Outcome State Fault Refusal :=
  match i with
  | .halt code => Sys2Proof.Machine.execHalt code s
  | .loadi x n => Sys2Proof.Machine.execLoadi x n s
  | .ldm x => Sys2Proof.Machine.execLdm x s
  | .stm x => Sys2Proof.Machine.execStm x s
  | .ldb x => Sys2Proof.Machine.execLdb x s
  | .stb x => Sys2Proof.Machine.execStb x s
  | .seti m => Sys2Proof.Machine.execSeti m s
  | .jump target => Sys2Proof.Machine.execJump target s
  | .prtz => Sys2Proof.Machine.execPrtz s
  | .prtn n => Sys2Proof.Machine.execPrtn n s
  | .putc b => Sys2Proof.Machine.execPutc b s
  | .prtd => Sys2Proof.Machine.execPrtd s
  | .inln => Sys2Proof.Machine.execInln s
  | .skei x n => Sys2Proof.Machine.execSkei x n s
  | .skni x n => Sys2Proof.Machine.execSkni x n s
  | .sker x y => Sys2Proof.Machine.execSker x y s
  | .sknr x y => Sys2Proof.Machine.execSknr x y s
  | .addx m => Sys2Proof.Machine.execAddx m s
  | .subx m => Sys2Proof.Machine.execSubx m s
  | .addi x n => Sys2Proof.Machine.execAddi x n s
  | .subi x n => Sys2Proof.Machine.execSubi x n s
  | .muli x n => Sys2Proof.Machine.execMuli x n s
  | .divi x n => Sys2Proof.Machine.execDivi x n s
  | .addr x y => Sys2Proof.Machine.execAddr x y s
  | .subr x y => Sys2Proof.Machine.execSubr x y s
  | .mulr x y => Sys2Proof.Machine.execMulr x y s
  | .divr x y => Sys2Proof.Machine.execDivr x y s
  | .copy x y => Sys2Proof.Machine.execCopy x y s
  | .call target => Sys2Proof.Machine.execCall target s
  | .ret => Sys2Proof.Machine.execRet s
  | .selx k => Sys2Proof.Machine.execSelx k s

end Sys2Proof.Machine
end

