-- ==== Sys2Proof/Machine/Fetch.lean ====
section
/-! DEFINITION. The step rule (60_exceptions.md R181), for any way `run` of executing a decoded instruction. -/

namespace Sys2Proof.Machine

/-- One step: the boundary tests in the order of 60_exceptions.md R182, then fetch, decode and dispatch. A
word that selects no instruction raises DecodeError (60_exceptions.md R171). -/
def stepWith (run : Instr → State → Host.Outcome State Fault Refusal) (s : State) :
    Host.Outcome State Fault Refusal :=
  if s.halted then .fault .halted
  else if s.irqNow then .next s.passBoundary.interruptHalt
  else if s.fetchable then
    match decodeWord s.fetchWord with
    | .ok i => run i s.atDispatch
    | .error _ => .next (s.atDispatch.raise .decode)
  else .next s.passBoundary.fetchEndHalt

/-- The word of an opcode-table row stored where the next fetch reads it, `pc` on. -/
def State.storeWordAtPc (s : State) (w : InstrWord) : State :=
  s.setMem (s.mem.writeCells (cellsFrom s.pc.toNat (wordBytes w)))

end Sys2Proof.Machine
end

