-- ==== Sys2Proof/Machine/Step.lean ====
section
/-! DEFINITION. One step of the machine (60_exceptions.md R181), and the placing of one word under the next
fetch. -/

namespace Sys2Proof.Machine

/-- One step (60_exceptions.md R181). -/
def step (s : State) : Host.Outcome State Fault Refusal := stepWith exec s

/-- `s` with an opcode-table row's word stored at `pc`, most significant byte first. Nothing else changes: a
machine that has halted, sees `irq` high or has `pc` above 65,533 still does not fetch
(notes/assumptions/12.md). -/
def State.withFetchWord (s : State) (nbits w : Nat) : State := s.storeWordAtPc (tableWord nbits w)

end Sys2Proof.Machine
end

