-- ==== Sys2Proof/Machine/Load.lean ====
section
/-! DEFINITION. Reset and load, one event (70_reset_and_hazards.md R190), for any launch. -/

namespace Sys2Proof.Machine

/-- What a launch supplies (00_scope.md R6, 10_state.md R41): the settings and the image; and what the
environment holds at launch (10_state.md R38, R39). -/
structure Launch where
  cfg : Config
  image : List Byte
  inLines : List Line
  inEnded : Bool
  irq : List Bool
  deriving DecidableEq, Repr

/-- The state of 10_state.md R42 for a launch whose image fits (20_memory.md R69). -/
def Launch.state (l : Launch) : State :=
  { State.reset with
    mem := Memory.ofImage l.image, inLines := l.inLines, inEnded := l.inEnded, irq := l.irq, cfg := l.cfg }

/-- The launch; an image longer than memory "is not a launch of this hardware" (20_memory.md R69). -/
def Launch.run (l : Launch) : Host.Outcome State Fault Refusal :=
  if l.image.length ≤ 65536 then .next l.state else .refused .imageTooLong

end Sys2Proof.Machine
end

