-- ==== Sys2Proof/WellFormed.lean ====
section
/-! DEFINITION. Operand validation, 30_encoding.md R93: each operand fits its field. For the hardware the
bounds hold by construction (95_test_vectors.md V7), and the types of Syntax.lean say the same; the check is
written over unbounded numbers so that it can refuse one. -/

namespace Sys2Proof

/-- An operand as a number together with the field it goes into. -/
inductive Operand where
  /-- A register id, 4 bits. -/
  | reg (n : Nat)
  /-- A 4-bit immediate (a slot number). -/
  | imm4 (n : Nat)
  /-- An 8-bit immediate. -/
  | imm8 (n : Nat)
  /-- A 12-bit immediate. -/
  | imm12 (n : Nat)
  /-- A 16-bit immediate or address. -/
  | imm16 (n : Nat)
  deriving DecidableEq, Repr

/-- The five bounds of 30_encoding.md R93. -/
def Operand.fits : Operand → Bool
  | .reg n => decide (n ≤ 0xF)
  | .imm4 n => decide (n ≤ 0xF)
  | .imm8 n => decide (n ≤ 0xFF)
  | .imm12 n => decide (n ≤ 0xFFF)
  | .imm16 n => decide (n ≤ 0xFFFF)

/-- The operands of an instruction with their fields (30_encoding.md R91, operand column). -/
def Instr.operands : Instr → List Operand
  | .halt m => [.imm16 m.toNat]
  | .loadi x n => [.reg x.val, .imm12 n.toNat]
  | .ldm x => [.reg x.val]
  | .stm x => [.reg x.val]
  | .ldb x => [.reg x.val]
  | .stb x => [.reg x.val]
  | .seti m => [.imm16 m.toNat]
  | .jump m => [.imm16 m.toNat]
  | .prtz => []
  | .prtn n => [.imm12 n.toNat]
  | .putc b => [.imm8 b.toNat]
  | .prtd => []
  | .inln => []
  | .skei x n => [.reg x.val, .imm12 n.toNat]
  | .skni x n => [.reg x.val, .imm12 n.toNat]
  | .sker x y => [.reg x.val, .reg y.val]
  | .sknr x y => [.reg x.val, .reg y.val]
  | .addx m => [.imm16 m.toNat]
  | .subx m => [.imm16 m.toNat]
  | .addi x n => [.reg x.val, .imm12 n.toNat]
  | .subi x n => [.reg x.val, .imm12 n.toNat]
  | .muli x n => [.reg x.val, .imm12 n.toNat]
  | .divi x n => [.reg x.val, .imm12 n.toNat]
  | .addr x y => [.reg x.val, .reg y.val]
  | .subr x y => [.reg x.val, .reg y.val]
  | .mulr x y => [.reg x.val, .reg y.val]
  | .divr x y => [.reg x.val, .reg y.val]
  | .copy x y => [.reg x.val, .reg y.val]
  | .call m => [.imm16 m.toNat]
  | .ret => []
  | .selx k => [.imm4 k.val]

/-- Every operand fits its field. -/
def Instr.wellFormed (i : Instr) : Bool := i.operands.all Operand.fits

end Sys2Proof
end

