-- ==== Sys2Proof/Safety.lean ====
section
/-! DEFINITION. The terms claims are stated in: the frame of a change, the events of a boundary, and the
invariant of every reachable state. -/

namespace Sys2Proof.Machine

/-! ### Frames -/

/-- What a change of state may touch. A part that is not named is kept. -/
structure May where
  /-- General registers. -/
  regs : RegId → Prop := fun _ => False
  /-- Index-bank slots. -/
  slots : SlotId → Prop := fun _ => False
  /-- The selector. -/
  sel : Prop := False
  /-- The program counter. -/
  pc : Prop := False
  /-- The call stack. -/
  stk : Prop := False
  /-- Memory cells. -/
  bytes : Nat → Prop := fun _ => False
  /-- `halted`, `exit_code`, `halt_cause`. -/
  halt : Prop := False
  /-- `fault_addr`, `fault_word`. -/
  fault : Prop := False
  /-- The output stream. -/
  out : Prop := False
  /-- The lines of the input stream. -/
  lines : Prop := False
  /-- The pending `irq` levels. -/
  irq : Prop := False

/-- From `s` to `t` nothing changes but what `m` names; memory is compared by reading single cells. -/
structure Frame (m : May) (s t : State) : Prop where
  regs : ∀ r, ¬ m.regs r → t.reg r = s.reg r
  slots : ∀ j, ¬ m.slots j → t.slot j = s.slot j
  sel : ¬ m.sel → t.sel = s.sel
  pc : ¬ m.pc → t.pc = s.pc
  stk : ¬ m.stk → t.stk = s.stk
  bytes : ∀ a, ¬ m.bytes a → t.mem.read a = s.mem.read a
  halt : ¬ m.halt → t.halted = s.halted ∧ t.exitCode = s.exitCode ∧ t.haltCause = s.haltCause
  fault : ¬ m.fault → t.faultAddr = s.faultAddr ∧ t.faultWord = s.faultWord
  out : ¬ m.out → t.out = s.out
  lines : ¬ m.lines → t.inLines = s.inLines
  irq : ¬ m.irq → t.irq = s.irq
  ended : t.inEnded = s.inEnded
  cfg : t.cfg = s.cfg

/-- An outcome with its next state, if it has one, changed by `f`. -/
def onNext (f : State → State) :
    Host.Outcome State Fault Refusal → Host.Outcome State Fault Refusal
  | .next t => .next (f t)
  | .fault r => .fault r
  | .refused r => .refused r

/-- The registers an instruction may write (10_state.md R22). -/
def destinations : Instr → RegId → Prop
  | .loadi x _, r | .ldb x, r | .addi x _, r | .subi x _, r | .muli x _, r | .divi x _, r
  | .addr x _, r | .subr x _, r | .mulr x _, r | .divr x _, r | .copy x _, r => r = x
  | .ldm x, r => r ≤ x
  | .halt _, _ | .stm _, _ | .stb _, _ | .seti _, _ | .jump _, _ | .prtz, _ | .prtn _, _ | .putc _, _
  | .prtd, _ | .inln, _ | .skei _ _, _ | .skni _ _, _ | .sker _ _, _ | .sknr _ _, _ | .addx _, _
  | .subx _, _ | .call _, _ | .ret, _ | .selx _, _ => False

/-! ### The events of a boundary (60_exceptions.md R181) -/

/-- The boundary tests pass: the machine fetches. -/
def State.Fetches (s : State) : Prop :=
  s.halted = false ∧ s.irqNow = false ∧ s.pc.toNat + 3 ≤ 65536

/-- The machine fetches a word that decodes to `i`. -/
def State.Runs (s : State) (i : Instr) : Prop := s.Fetches ∧ decodeWord s.fetchWord = .ok i

/-- The fatal error an instruction raises when it is dispatched, if any: the conditions of
60_exceptions.md R172 to R174. -/
def State.errorOf (s : State) : Instr → Option ErrorKind
  | .divi _ n => if n = 0 then some .runtime else none
  | .divr _ y => if s.reg y = 0 then some .runtime else none
  | .call _ => if s.cfg.stackCapacity ≤ s.sp then some .overflow else none
  | .ret => if s.sp = 0 then some .underflow else none
  | .halt _ | .loadi _ _ | .ldm _ | .stm _ | .ldb _ | .stb _ | .seti _ | .jump _ | .prtz | .prtn _
  | .putc _ | .prtd | .inln | .skei _ _ | .skni _ _ | .sker _ _ | .sknr _ _ | .addx _ | .subx _
  | .addi _ _ | .subi _ _ | .muli _ _ | .addr _ _ | .subr _ _ | .mulr _ _ | .copy _ _ | .selx _ => none

/-- The fatal error that fetching and running the word at `pc` raises, if any: DecodeError where the word
selects no instruction (60_exceptions.md R171), else the instruction's own. -/
def State.errorAhead (s : State) : Option ErrorKind :=
  match decodeWord s.fetchWord with
  | .error _ => some .decode
  | .ok i => s.errorOf i

/-- INLN would block: no line is available and the stream has not ended (70_reset_and_hazards.md R197). -/
def State.NoLine (s : State) : Prop := s.inLines = [] ∧ s.inEnded = false

/-! ### The invariant -/

/-- What holds at reset and after every step from a state where it holds. -/
structure State.Inv (s : State) : Prop where
  /-- Memory is in its canonical form. -/
  mem : s.mem.wf = true
  /-- The settings meet their constraint (00_scope.md R6). -/
  cfg : s.cfg.wf = true
  /-- `0 <= sp <= STACK_CAPACITY` (10_state.md R31). -/
  sp : s.sp ≤ s.cfg.stackCapacity
  /-- A return address is at most 65,536 (10_state.md R29). -/
  stk : ∀ a ∈ s.stk, a.toNat ≤ 65536
  /-- The largest value `pc` can hold is 65,539 (10_state.md R29). -/
  pc : s.pc.toNat ≤ 65539
  /-- `halt_cause` is written together with `halted` (10_state.md R34). -/
  halt : s.halted = true ↔ s.haltCause ≠ .none
  /-- An observed interrupt leaves exit code 0 (60_exceptions.md R179). -/
  interrupt : s.haltCause = .interrupt → s.exitCode = 0
  /-- The implicit halt leaves its status (60_exceptions.md R178). -/
  fetchEnd : s.haltCause = .fetchEnd → s.exitCode = statusOf .fetchEnd
  /-- A fatal error leaves its status, the faulting address 3 below `pc`, and the word still found there
  (60_exceptions.md R175, R176). -/
  error : ∀ e : ErrorKind, s.haltCause = e.cause →
    s.exitCode = statusOf e.cause ∧ s.faultAddr.toNat + 3 = s.pc.toNat ∧
      s.faultWord = s.mem.readWord s.faultAddr.toNat

end Sys2Proof.Machine
end

