-- ==== Sys2Proof/Certificates/Slice0/Obligations.lean ====
section
/-! DEFINITION. The statements for the provers. A statement marked DERIVED rests on a decision the spec
marks as its own (92_eei_decisions.md) or on a choice of the model named by its log entry. -/

open Sys2Proof Sys2Proof.Machine

/-! ### Encoding -/

/-- DERIVED. Every instruction is well-formed, and its bytes, followed by any others, decode to it and leave
the others. -/
def Obligations.EncodedInstructionDecodesBack : Prop :=
  ∀ (i : Instr) (rest : List Byte),
    i.wellFormed = true ∧ decodeBytes (encodeBytes i ++ rest) = .ok (i, rest)

/-- 30_encoding.md R91: "a word `w` selects the row when `w & mask = match`", for the row of each of the 31
instructions. No word selects two rows. -/
def Obligations.WordSelectsRowByMatchAndMask : Prop :=
  ∀ (w : InstrWord) (j : Instr),
    w &&& j.row.mask = j.row.pattern ↔ ∃ i, decodeWord w = .ok i ∧ i.row = j.row

/-- 30_encoding.md R87 and R88: exactly these words select no instruction, and which of the two reasons
applies. -/
def Obligations.IllegalWordsAreExactlyThese : Prop :=
  ∀ w : InstrWord,
    (decodeWord w = .error .illegalOpcode ↔ 0x14 ≤ w.toNat / 65536) ∧
    (decodeWord w = .error .illegalSubcase ↔
      (w.toNat / 65536 = 0x02 ∧ 4 ≤ w.toNat % 16) ∨
      (w.toNat / 65536 = 0x05 ∧ 4 ≤ w.toNat / 4096 % 16) ∨
      (w.toNat / 65536 = 0x09 ∧ 2 ≤ w.toNat % 16) ∨
      (w.toNat / 65536 = 0x10 ∧ 5 ≤ w.toNat % 16)) ∧
    decodeWord w ≠ .error .truncated

/-- DERIVED (30_encoding.md section 3, ignored bits; the spec's decision D10). A word that agrees with `w`
outside the ignored bits of the selected row decodes to the same instruction, and encoding that instruction
gives `w` with those bits 0. -/
def Obligations.IgnoredBitsChangeNothing : Prop :=
  ∀ (w : InstrWord) (i : Instr), decodeWord w = .ok i →
    encode i = w &&& ~~~ i.row.ignored ∧
    ∀ v : InstrWord, v ||| i.row.ignored = w ||| i.row.ignored → decodeWord v = .ok i

/-- 30_encoding.md R82 and R83: the six fields as parts of the number `w`, and their overlaps. -/
def Obligations.FieldsAreViewsOfOneWord : Prop :=
  ∀ w : InstrWord,
    (fieldOP w).toNat = w.toNat / 65536 ∧
    (fieldX w).toNat = w.toNat / 4096 % 16 ∧
    (fieldY w).toNat = w.toNat / 256 % 16 ∧
    (fieldMMMM w).toNat = w.toNat % 65536 ∧
    (fieldNNN w).toNat = w.toNat % 4096 ∧
    (fieldK w).toNat = w.toNat % 16 ∧
    fieldX w = (fieldMMMM w).extractLsb' 12 4 ∧
    fieldY w = (fieldMMMM w).extractLsb' 8 4 ∧ fieldY w = (fieldNNN w).extractLsb' 8 4 ∧
    fieldK w = (fieldMMMM w).extractLsb' 0 4 ∧ fieldK w = (fieldNNN w).extractLsb' 0 4 ∧
    fieldNNN w = (fieldMMMM w).extractLsb' 0 12

/-- DERIVED. The words of 95_test_vectors.md B1 and of the examples in the instruction files, one or more of
every family. -/
def Obligations.SampleWordsDecodeAsWritten : Prop :=
  decodeWord 0x01A123 = .ok (.loadi 10 0x123) ∧ decodeWord 0x1012F2 = .ok (.mulr 1 2) ∧
  decodeWord 0xFFFFFF = .error .illegalOpcode ∧ decodeWord 0x000000 = .ok (.halt 0) ∧
  decodeWord 0x13FFFA = .ok (.selx 10) ∧ decodeWord 0x02AFF2 = .ok (.ldb 10) ∧
  decodeWord 0x140000 = .error .illegalOpcode ∧ decodeWord 0x020004 = .error .illegalSubcase ∧
  decodeWord 0x053000 = .ok .prtd ∧ decodeWord 0x054000 = .error .illegalSubcase ∧
  decodeWord 0x090001 = .ok (.sknr 0 0) ∧ decodeWord 0x100005 = .error .illegalSubcase ∧
  decodeWord 0x110018 = .ok (.call 0x18) ∧ decodeWord 0x0B2345 = .ok (.subx 0x2345)

/-- 20_memory.md R55: `w = mem[pc] ++ mem[pc+1] ++ mem[pc+2]`, the opcode in bits 23 to 16. -/
def Obligations.FetchIsBigEndian : Prop :=
  ∀ s : State,
    s.fetchWord.toNat = (s.mem.read s.pc.toNat).toNat * 65536 +
      (s.mem.read (s.pc.toNat + 1)).toNat * 256 + (s.mem.read (s.pc.toNat + 2)).toNat ∧
    fieldOP s.fetchWord = s.mem.read s.pc.toNat

/-! ### The step -/

/-- DERIVED (60_exceptions.md section 5, 10_state.md section 4). Where the boundary tests pass and the word at
`pc` decodes to `i`, the step is `exec i` at the same state with `pc` advanced by 3 and this boundary's `irq`
level used up (the model's own field, notes/assumptions/1.md). -/
def Obligations.StepRunsTheDecodedInstruction : Prop :=
  ∀ (s : State) (i : Instr), s.Runs i →
    ∃ d : State, step s = exec i d ∧ d.pc.toNat = s.pc.toNat + 3 ∧ d.irq = s.irq.tail ∧
      d = { s with pc := d.pc, irq := d.irq }

/-- DERIVED (the model's `withFetchWord`, notes/assumptions/12.md). A word stored under the next fetch is the
word the next step fetches, and the step runs what the decoder reads from it. -/
def Obligations.StoredWordIsRunNext : Prop :=
  ∀ (s : State) (w : Nat), s.Fetches → w < 2 ^ 24 →
    (s.withFetchWord 24 w).fetchWord.toNat = w ∧
    ∀ i, decodeTableWord 24 w = some i →
      step (s.withFetchWord 24 w) = exec i (s.withFetchWord 24 w).atDispatch

/-- DERIVED (60_exceptions.md sections 4 and 5; the spec's decision D17, notes/assumptions/22.md). The
interrupt request. That it is observed before the fetch bound, where `pc` is 65,534 or more, is the order D17
chooses. -/
def Obligations.InterruptRequestHalts : Prop :=
  ∀ s : State, s.halted = false → s.irqNow = true →
    ∃ t, step s = .next t ∧ t.haltCause = .interrupt ∧ t.exitCode = 0 ∧ t.halted = true ∧
      Frame { halt := True, irq := True } s t

/-- 60_exceptions.md R178: the implicit halt at the end of memory, with no cell read; `pc` is kept and the
fault record is not written. -/
def Obligations.FetchBeyondMemoryHalts : Prop :=
  ∀ s : State, s.halted = false → s.irqNow = false → 65534 ≤ s.pc.toNat →
    ∃ t, step s = .next t ∧ t.haltCause = .fetchEnd ∧ t.exitCode = statusOf .fetchEnd ∧
      t.halted = true ∧ Frame { halt := True, irq := True } s t

/-- 60_exceptions.md R171: a word that selects no instruction raises DecodeError and does nothing else. -/
def Obligations.IllegalWordRaisesDecodeError : Prop :=
  ∀ s : State, s.Fetches →
    (0x14 ≤ s.fetchWord.toNat / 65536 ∨
      (s.fetchWord.toNat / 65536 = 0x02 ∧ 4 ≤ s.fetchWord.toNat % 16) ∨
      (s.fetchWord.toNat / 65536 = 0x05 ∧ 4 ≤ s.fetchWord.toNat / 4096 % 16) ∨
      (s.fetchWord.toNat / 65536 = 0x09 ∧ 2 ≤ s.fetchWord.toNat % 16) ∨
      (s.fetchWord.toNat / 65536 = 0x10 ∧ 5 ≤ s.fetchWord.toNat % 16)) →
    ∃ t, step s = .next t ∧ t.haltCause = .decodeError ∧ t.halted = true ∧
      t.faultAddr = s.pc ∧ t.faultWord = s.fetchWord ∧ t.pc.toNat = s.pc.toNat + 3 ∧
      Frame { halt := True, fault := True, pc := True, irq := True } s t

/-- DERIVED (60_exceptions.md section 2; the spec's decisions D13 to D15). Each of the four fatal errors
records the fetch address and the raw word and changes nothing else but the advanced `pc`. -/
def Obligations.FatalErrorsArePrecise : Prop :=
  ∀ (s : State) (e : ErrorKind), s.Fetches → s.errorAhead = some e →
    ∃ t, step s = .next t ∧ t.faultAddr = s.pc ∧ t.faultWord = s.fetchWord ∧
      t.haltCause = e.cause ∧ t.exitCode = statusOf e.cause ∧ t.halted = true ∧
      t.pc.toNat = s.pc.toNat + 3 ∧
      Frame { halt := True, fault := True, pc := True, irq := True } s t

/-- DERIVED (10_state.md section 6, 60_exceptions.md section 5). The halt flag is clear at reset; a step sets
it exactly on an observed interrupt, the implicit halt, a fatal error or HALT; once it is set there is no
step. -/
def Obligations.HaltFlagIsSetByTheSevenEventsOnly : Prop :=
  State.reset.halted = false ∧
  ∀ s : State, (s.halted = true → step s = .fault .halted) ∧
    ∀ t, step s = .next t →
      (t.halted = true ↔ s.irqNow = true ∨ 65536 < s.pc.toNat + 3 ∨ s.errorAhead ≠ none ∨
        ∃ m, decodeWord s.fetchWord = .ok (.halt m))

/-- DERIVED (10_state.md section 6; the spec's decision D13). From a state that has not halted, `halt_cause`
after a step names the event of that step, and only that one. -/
def Obligations.HaltCauseNamesItsEvent : Prop :=
  ∀ s t : State, s.haltCause = .none → step s = .next t →
    (t.haltCause = .interrupt ↔ s.irqNow = true) ∧
    (t.haltCause = .fetchEnd ↔ s.irqNow = false ∧ 65536 < s.pc.toNat + 3) ∧
    (∀ e : ErrorKind, t.haltCause = e.cause ↔ s.Fetches ∧ s.errorAhead = some e) ∧
    (t.haltCause = .haltInstr ↔ ∃ m, s.Runs (.halt m))

/-- DERIVED (60_exceptions.md section 5, 70_reset_and_hazards.md section 3). Every state that has not halted has a step, unless it fetches an INLN that has no line; no step is refused. -/
def Obligations.StepExistsUnlessHaltedOrHeld : Prop :=
  ∀ s : State, s.halted = false → ¬ (s.Runs .inln ∧ s.NoLine) → ∃ t, step s = .next t

/-! ### Halt and control transfer -/

/-- 40_control.md R110: HALT. -/
def Obligations.HaltSetsExitCodeAndStops : Prop :=
  ∀ (m : BitVec 16) (s : State),
    ∃ t, exec (.halt m) s = .next t ∧ t.exitCode = m ∧ t.haltCause = .haltInstr ∧ t.halted = true ∧
      Frame { halt := True } s t ∧ step t = .fault .halted

/-- 40_control.md R111: JUMP, and the implicit halt that follows a target of 65,534 or 65,535. -/
def Obligations.JumpGoesToItsTarget : Prop :=
  ∀ (m : BitVec 16) (s : State),
    ∃ t, exec (.jump m) s = .next t ∧ t.pc.toNat = m.toNat ∧ Frame { pc := True } s t ∧
      (65534 ≤ m.toNat → s.halted = false → s.irqNow = false →
        ∃ u, step t = .next u ∧ u.haltCause = .fetchEnd ∧ u.pc.toNat = m.toNat)

/-- 40_control.md R112 to R115: the four skips. `s` is the state at dispatch, so `s.pc` is `a + 3`. -/
def Obligations.SkipsPassOverThreeBytes : Prop :=
  ∀ (x y : RegId) (n : BitVec 12) (s : State),
    (∃ t, exec (.skei x n) s = .next t ∧ t.pc = (if s.reg x = n then s.pc + 3 else s.pc) ∧
      Frame { pc := True } s t) ∧
    (∃ t, exec (.skni x n) s = .next t ∧ t.pc = (if s.reg x = n then s.pc else s.pc + 3) ∧
      Frame { pc := True } s t) ∧
    (∃ t, exec (.sker x y) s = .next t ∧ t.pc = (if s.reg x = s.reg y then s.pc + 3 else s.pc) ∧
      Frame { pc := True } s t) ∧
    (∃ t, exec (.sknr x y) s = .next t ∧ t.pc = (if s.reg x = s.reg y then s.pc else s.pc + 3) ∧
      Frame { pc := True } s t)

/-- 40_control.md R116: CALL pushes the advanced `pc` and goes to its target; on a full call stack it raises
StackOverflow, with nothing pushed and `pc` kept. -/
def Obligations.CallPushesTheAdvancedPc : Prop :=
  ∀ (m : BitVec 16) (s : State),
    (s.sp < s.cfg.stackCapacity →
      ∃ t, exec (.call m) s = .next t ∧ t.sp = s.sp + 1 ∧ t.stk[s.sp]? = some s.pc ∧
        (∀ k, k < s.sp → t.stk[k]? = s.stk[k]?) ∧ t.pc.toNat = m.toNat ∧
        Frame { pc := True, stk := True } s t) ∧
    (s.cfg.stackCapacity ≤ s.sp →
      ∃ t, exec (.call m) s = .next t ∧ t.halted = true ∧ t.haltCause = .stackOverflow ∧
        Frame { halt := True, fault := True } s t)

/-- 40_control.md R117: RET goes to the popped entry, whatever it is; on an empty call stack it raises
StackUnderflow, with `pc` kept. -/
def Obligations.RetPopsTheTopEntry : Prop :=
  ∀ s : State,
    (0 < s.sp →
      ∃ t, exec .ret s = .next t ∧ t.sp + 1 = s.sp ∧ s.stk[t.sp]? = some t.pc ∧
        (∀ k, k < t.sp → t.stk[k]? = s.stk[k]?) ∧ Frame { pc := True, stk := True } s t) ∧
    (s.sp = 0 →
      ∃ t, exec .ret s = .next t ∧ t.halted = true ∧ t.haltCause = .stackUnderflow ∧
        Frame { halt := True, fault := True } s t)

/-- 40_control.md R118: call and return pair. A CALL fetched at `a` with `sp = s.sp` executes; however many
steps follow, if `sp` has not gone below `s.sp + 1` in between and is `s.sp + 1` when a RET executes, that RET
sets `pc = a + 3` and the call stack is again what it was before the CALL. -/
def Obligations.CallReturnPairing : Prop :=
  ∀ (s : State) (m : BitVec 16), s.Runs (.call m) → s.sp < s.cfg.stackCapacity →
    ∃ s1, step s = .next s1 ∧ s1.sp = s.sp + 1 ∧
      ∀ (k : Nat) (s2 : State), Sys2Proof.core.run k s1 = .next s2 →
        (∀ (j : Nat) (u : State), j ≤ k → Sys2Proof.core.run j s1 = .next u → s.sp + 1 ≤ u.sp) →
        s2.sp = s.sp + 1 → s2.Runs .ret →
        ∃ t, step s2 = .next t ∧ t.pc.toNat = s.pc.toNat + 3 ∧ t.sp = s.sp ∧ t.stk = s.stk

/-! ### Register load and register-memory transfer -/

/-- 41_register_memory.md R120: LOADI. -/
def Obligations.LoadiLoadsItsImmediate : Prop :=
  ∀ (x : RegId) (n : BitVec 12) (s : State),
    ∃ t, exec (.loadi x n) s = .next t ∧ t.reg x = n ∧ Frame { regs := (· = x) } s t

/-- DERIVED (41_register_memory.md, LDM; the spec's decisions D7 and D8). Register `i <= X` gets the cell at
`(cur + i) mod 65536`, zero-extended. -/
def Obligations.LdmLoadsOneCellPerRegister : Prop :=
  ∀ (x : RegId) (s : State),
    ∃ t, exec (.ldm x) s = .next t ∧
      (∀ r, r ≤ x → s.elemAddr r = (s.cur.toNat + r.val) % 65536 ∧
        (t.reg r).toNat = (s.mem.read (s.elemAddr r)).toNat) ∧
      Frame { regs := (· ≤ x) } s t

/-- DERIVED (41_register_memory.md, STM; the spec's decisions D7 and D8). The cell at `(cur + i) mod 65536`
gets the low 8 bits of register `i <= X`; every other cell is kept. -/
def Obligations.StmStoresOneCellPerRegister : Prop :=
  ∀ (x : RegId) (s : State),
    ∃ t, exec (.stm x) s = .next t ∧
      (∀ r, r ≤ x → s.elemAddr r = (s.cur.toNat + r.val) % 65536 ∧
        (t.mem.read (s.elemAddr r)).toNat = (s.reg r).toNat % 256) ∧
      Frame { bytes := fun a => ∃ r, r ≤ x ∧ a = s.elemAddr r } s t

/-- DERIVED (41_register_memory.md, LDB and STB; the spec's decision D7). -/
def Obligations.LdbAndStbMoveOneCell : Prop :=
  ∀ (x : RegId) (s : State),
    (∃ t, exec (.ldb x) s = .next t ∧ (t.reg x).toNat = (s.mem.read s.cur.toNat).toNat ∧
      Frame { regs := (· = x) } s t) ∧
    (∃ t, exec (.stb x) s = .next t ∧
      (t.mem.read s.cur.toNat).toNat = (s.reg x).toNat % 256 ∧
      Frame { bytes := (· = s.cur.toNat) } s t)

/-! ### Index bank -/

/-- 42_index_bank.md R130 and R133: SETI writes the selected slot only, SELX the selector only; the slot
selected by SELX is then the current index. -/
def Obligations.SetiAndSelxWriteSlotAndSelector : Prop :=
  ∀ (m : BitVec 16) (k : SlotId) (s : State),
    (∃ t, exec (.seti m) s = .next t ∧ t.slot s.sel = m ∧ Frame { slots := (· = s.sel) } s t) ∧
    (∃ t, exec (.selx k) s = .next t ∧ t.sel = k ∧ t.cur = s.slot k ∧ Frame { sel := True } s t)

/-- DERIVED (42_index_bank.md, ADDX and SUBX; the spec's decision D9). Both are modulo 65536, and SUBX undoes
ADDX with the same operand exactly. -/
def Obligations.AddxAndSubxWrapModulo65536 : Prop :=
  ∀ (m : BitVec 16) (s : State),
    (∃ t, exec (.addx m) s = .next t ∧
      (t.slot s.sel).toNat = ((s.slot s.sel).toNat + m.toNat) % 65536 ∧
      Frame { slots := (· = s.sel) } s t ∧ exec (.subx m) t = .next s) ∧
    (∃ t, exec (.subx m) s = .next t ∧
      ((t.slot s.sel).toNat : Int) = ((s.slot s.sel).toNat - m.toNat : Int) % 65536 ∧
      Frame { slots := (· = s.sel) } s t)

/-! ### Input and output -/

/-- DERIVED (43_io.md, PRTZ; the spec's decision D18). The bytes from `cur` up to, and without, the first zero
byte, or up to the end of memory. -/
def Obligations.PrtzPrintsUpToZeroOrMemoryEnd : Prop :=
  ∀ s : State,
    ∃ t bs, exec .prtz s = .next t ∧ t.out = s.out ++ bs ∧
      (∀ k, k < bs.length → bs[k]? = some (s.mem.read (s.cur.toNat + k)) ∧
        s.mem.read (s.cur.toNat + k) ≠ 0) ∧
      s.cur.toNat + bs.length ≤ 65536 ∧
      (s.cur.toNat + bs.length = 65536 ∨ s.mem.read (s.cur.toNat + bs.length) = 0) ∧
      Frame { out := True } s t

/-- DERIVED (43_io.md, PRTN; the spec's decision D18). `min(NNN, 65536 - cur)` bytes from `cur` on. -/
def Obligations.PrtnPrintsItsCountClipped : Prop :=
  ∀ (n : BitVec 12) (s : State),
    ∃ t bs, exec (.prtn n) s = .next t ∧ t.out = s.out ++ bs ∧
      bs.length = min n.toNat (65536 - s.cur.toNat) ∧
      (∀ k, k < bs.length → bs[k]? = some (s.mem.read (s.cur.toNat + k))) ∧
      Frame { out := True } s t

/-- 43_io.md R142: PUTC writes the byte `NNN & 0xFF`, with bits 11 to 8 of `NNN` ignored. -/
def Obligations.PutcWritesItsByte : Prop :=
  (∀ w : InstrWord, w.toNat / 65536 = 0x05 → w.toNat / 4096 % 16 = 2 →
    decodeWord w = .ok (.putc (BitVec.ofNat 8 (w.toNat % 4096 % 256)))) ∧
  ∀ (b : BitVec 8) (s : State),
    ∃ t, exec (.putc b) s = .next t ∧ t.out = s.out ++ [b] ∧ Frame { out := True } s t

/-- DERIVED (43_io.md, PRTD; the spec's decision D18 and passage G2). The shortest decimal numeral of the cell
at `cur`, most significant digit first, in the codes 0x30 to 0x39. -/
def Obligations.PrtdPrintsTheDecimalNumeral : Prop :=
  ∀ s : State,
    ∃ t ds, exec .prtd s = .next t ∧
      t.out = s.out ++ ds.map (fun d => BitVec.ofNat 8 (0x30 + d)) ∧
      (∀ d ∈ ds, d ≤ 9) ∧ ds.foldl (fun v d => 10 * v + d) 0 = (s.mem.read s.cur.toNat).toNat ∧
      (ds.length = 1 ∨ ∃ d rest, ds = d :: rest ∧ rest ≠ [] ∧ d ≠ 0) ∧
      Frame { out := True } s t

/-- DERIVED (43_io.md, INLN; the spec's decision D19). With a line available, its bytes are stored verbatim
from `cur` on, clipped at 65,535, and the line is used up; end of input changes nothing. -/
def Obligations.InlnStoresTheLineClipped : Prop :=
  ∀ s : State,
    (∀ text rest, s.inLines = text :: rest →
      ∃ t, exec .inln s = .next t ∧ t.inLines = rest ∧
        (∀ k, k < min text.length (65536 - s.cur.toNat) →
          text[k]? = some (t.mem.read (s.cur.toNat + k))) ∧
        Frame { lines := True, bytes := fun a =>
          s.cur.toNat ≤ a ∧ a < s.cur.toNat + min text.length (65536 - s.cur.toNat) } s t) ∧
    (s.inLines = [] → s.inEnded = true → ∃ t, exec .inln s = .next t ∧ Frame { } s t)

/-- DERIVED (70_reset_and_hazards.md section 3, 93_implementation_defined.md U17; the model's fault
`heldOnInput`, notes/assumptions/4.md). A step stops on the held fault exactly when it runs INLN without a
line; once the environment supplies one, the same INLN has its step. -/
def Obligations.InlnIsHeldExactlyWithoutALine : Prop :=
  ∀ s : State,
    (step s = .fault .heldOnInput ↔ s.Runs .inln ∧ s.NoLine) ∧
    (s.Runs .inln → ∀ text, ∃ t, step (s.supplyLine text) = .next t ∧ t.halted = false)

/-! ### Arithmetic and register copy -/

/-- 44_arithmetic.md R153 to R155: ADDI, SUBI, MULI modulo 4096. -/
def Obligations.ImmediateArithmeticIsModulo4096 : Prop :=
  ∀ (x : RegId) (n : BitVec 12) (s : State),
    (∃ t, exec (.addi x n) s = .next t ∧
      (t.reg x).toNat = ((s.reg x).toNat + n.toNat) % 4096 ∧ Frame { regs := (· = x) } s t) ∧
    (∃ t, exec (.subi x n) s = .next t ∧
      ((t.reg x).toNat : Int) = ((s.reg x).toNat - n.toNat : Int) % 4096 ∧
      Frame { regs := (· = x) } s t) ∧
    (∃ t, exec (.muli x n) s = .next t ∧
      (t.reg x).toNat = (s.reg x).toNat * n.toNat % 4096 ∧ Frame { regs := (· = x) } s t)

/-- 44_arithmetic.md R156: DIVI stores the quotient, or raises RuntimeError for `NNN = 0` with the register
unchanged. -/
def Obligations.DiviStoresTheQuotientOrFails : Prop :=
  ∀ (x : RegId) (n : BitVec 12) (s : State),
    (n ≠ 0 → ∃ t, exec (.divi x n) s = .next t ∧
      (t.reg x).toNat = (s.reg x).toNat / n.toNat ∧ Frame { regs := (· = x) } s t) ∧
    (n = 0 → ∃ t, exec (.divi x n) s = .next t ∧ t.halted = true ∧ t.haltCause = .runtimeError ∧
      Frame { halt := True, fault := True } s t)

/-- 44_arithmetic.md R157 to R159: ADDR, SUBR, MULR modulo 4096, both operands read before the write, so that
`X = Y` is covered. -/
def Obligations.RegisterArithmeticIsModulo4096 : Prop :=
  ∀ (x y : RegId) (s : State),
    (∃ t, exec (.addr x y) s = .next t ∧
      (t.reg x).toNat = ((s.reg x).toNat + (s.reg y).toNat) % 4096 ∧
      Frame { regs := (· = x) } s t) ∧
    (∃ t, exec (.subr x y) s = .next t ∧
      ((t.reg x).toNat : Int) = ((s.reg x).toNat - (s.reg y).toNat : Int) % 4096 ∧
      Frame { regs := (· = x) } s t) ∧
    (∃ t, exec (.mulr x y) s = .next t ∧
      (t.reg x).toNat = (s.reg x).toNat * (s.reg y).toNat % 4096 ∧ Frame { regs := (· = x) } s t)

/-- 44_arithmetic.md R160: DIVR stores the quotient, or raises RuntimeError for a zero-valued register with
the destination unchanged. -/
def Obligations.DivrStoresTheQuotientOrFails : Prop :=
  ∀ (x y : RegId) (s : State),
    (s.reg y ≠ 0 → ∃ t, exec (.divr x y) s = .next t ∧
      (t.reg x).toNat = (s.reg x).toNat / (s.reg y).toNat ∧ Frame { regs := (· = x) } s t) ∧
    (s.reg y = 0 → ∃ t, exec (.divr x y) s = .next t ∧ t.halted = true ∧
      t.haltCause = .runtimeError ∧ Frame { halt := True, fault := True } s t)

/-- DERIVED (44_arithmetic.md, COPY; the spec's decision D12). An exact copy with the 12-bit setting, the low
8 bits with the 8-bit setting. -/
def Obligations.CopyFollowsItsMaskSetting : Prop :=
  ∀ (x y : RegId) (s : State),
    ∃ t, exec (.copy x y) s = .next t ∧
      (s.cfg.copyMask = .twelve → t.reg x = s.reg y) ∧
      (s.cfg.copyMask = .eight → (t.reg x).toNat = (s.reg y).toNat % 256) ∧
      Frame { regs := (· = x) } s t

/-! ### Which instruction may change what -/

/-- DERIVED (10_state.md section 2). A register changes only as a destination of an instruction that writes
registers. -/
def Obligations.RegistersChangeOnlyAsDestinations : Prop :=
  ∀ (i : Instr) (s t : State) (r : RegId),
    exec i s = .next t → t.reg r ≠ s.reg r → destinations i r

/-- DERIVED (10_state.md section 3). A slot is written only by SETI, ADDX and SUBX and only while it is
selected; the selector only by SELX. -/
def Obligations.IndexBankChangesOnlyByItsInstructions : Prop :=
  ∀ (i : Instr) (s t : State), exec i s = .next t →
    (∀ j, t.slot j ≠ s.slot j → j = s.sel ∧ ∃ m, i = .seti m ∨ i = .addx m ∨ i = .subx m) ∧
    (t.sel ≠ s.sel → ∃ k, i = .selx k)

/-- DERIVED (20_memory.md section 1). A cell changes only by STM, STB and INLN, and only where they store. -/
def Obligations.MemoryChangesOnlyByStores : Prop :=
  ∀ (i : Instr) (s t : State) (a : Nat), exec i s = .next t → t.mem.read a ≠ s.mem.read a →
    (∃ x r, i = .stm x ∧ r ≤ x ∧ a = s.elemAddr r) ∨ (∃ x, i = .stb x ∧ a = s.cur.toNat) ∨
    (i = .inln ∧ s.cur.toNat ≤ a ∧ a < 65536)

/-- DERIVED (10_state.md sections 4 and 5, 40_control.md). `stk` changes only by CALL and RET; after the
advance, `pc` changes only by JUMP, CALL, RET and the skips. -/
def Obligations.StackAndPcChangeOnlyByControlTransfer : Prop :=
  ∀ (i : Instr) (s t : State), exec i s = .next t →
    (t.stk ≠ s.stk → (∃ m, i = .call m) ∨ i = .ret) ∧
    (t.pc ≠ s.pc → (∃ m, i = .jump m) ∨ (∃ m, i = .call m) ∨ i = .ret ∨
      (∃ x n, i = .skei x n) ∨ (∃ x n, i = .skni x n) ∨ (∃ x y, i = .sker x y) ∨
      (∃ x y, i = .sknr x y))

/-- DERIVED (10_state.md sections 7 and 8, 70_reset_and_hazards.md section 3; the environment's fields are the
model's, notes/assumptions/1.md). Over a step the settings are fixed, `OUT` is only appended to, lines are
only taken from the front, and one `irq` level is used up. -/
def Obligations.StreamsAndSettingsOverAStep : Prop :=
  ∀ s t : State, step s = .next t →
    t.cfg = s.cfg ∧ s.out <+: t.out ∧ t.inLines <:+ s.inLines ∧ t.inEnded = s.inEnded ∧
      t.irq = s.irq.tail

/-! ### What no instruction can read -/

/-- DERIVED (10_state.md section 3): "a slot that is not selected cannot be read or written until SELX selects
it". Another value in an unselected slot changes nothing but that slot. -/
def Obligations.UnselectedSlotsAreNeverRead : Prop :=
  ∀ (i : Instr) (s : State) (j : SlotId) (v : Addr), j ≠ s.sel →
    exec i { s with idx := s.idx.set j v } =
      onNext (fun t => { t with idx := t.idx.set j v }) (exec i s)

/-- DERIVED (20_memory.md section 1, 10_state.md section 5): no instruction but CALL and RET reads or writes
the call stack. -/
def Obligations.CallStackIsNeverReadAsData : Prop :=
  ∀ (i : Instr) (s : State) (stk : List PcWord), (∀ m, i ≠ .call m) → i ≠ .ret →
    exec i { s with stk := stk } = onNext (fun t => { t with stk := stk }) (exec i s)

/-- DERIVED (10_state.md section 6): no instruction reads `halted`, `exit_code`, `halt_cause`, `fault_addr` or
`fault_word`. -/
def Obligations.HaltAndFaultRegistersAreNeverRead : Prop :=
  ∀ (i : Instr) (s : State) (b : Bool) (e : BitVec 16) (c : HaltCause) (a : PcWord) (w : InstrWord),
    let hide := fun t : State =>
      { t with halted := b, exitCode := e, haltCause := c, faultAddr := a, faultWord := w }
    onNext hide (exec i (hide s)) = onNext hide (exec i s)

/-! ### Memory -/

/-- DERIVED (20_memory.md sections 4 and 6). After single-cell writes in a row, a read returns the value of the
latest write to the cell, or what the cell held before if there was none, in every memory. -/
def Obligations.ReadReturnsTheLatestWrite : Prop :=
  ∀ (m : Memory) (cells : List Host.Cell) (a : Nat),
    (m.writeCells cells).read a =
      match cells.reverse.find? (fun c => decide (c.1 = a)) with
      | some c => c.2
      | none => m.read a

/-- DERIVED (the model's canonical form of memory). Writes inside the address space keep the form, and two
memories in that form that read alike are the same data. -/
def Obligations.MemoryFormIsCanonical : Prop :=
  (∀ (m : Memory) (cells : List Host.Cell), m.wf = true → (∀ c ∈ cells, c.1 < 65536) →
    (m.writeCells cells).wf = true) ∧
  ∀ m n : Memory, m.wf = true → n.wf = true → (∀ a, a < 65536 → m.read a = n.read a) → m = n

/-- DERIVED (20_memory.md section 6, instruction-fetch coherence). A byte stored by STB, STM or INLN is the
byte the next fetch reads, at each of the three places of the fetched word. -/
def Obligations.StoreIsSeenByTheNextFetch : Prop :=
  ∀ (s t : State) (p : PcWord) (k : Nat), k < 3 →
    (∀ x, exec (.stb x) s = .next t → p.toNat + k = s.cur.toNat →
      (wordBytes (t.setPc p).fetchWord)[k]? = some (wordToByte (s.reg x))) ∧
    (∀ x r, exec (.stm x) s = .next t → r ≤ x → p.toNat + k = s.elemAddr r →
      (wordBytes (t.setPc p).fetchWord)[k]? = some (wordToByte (s.reg r))) ∧
    (∀ text rest j, s.inLines = text :: rest → exec .inln s = .next t → j < text.length →
      s.cur.toNat + j < 65536 → p.toNat + k = s.cur.toNat + j →
      (wordBytes (t.setPc p).fetchWord)[k]? = text[j]?)

/-! ### Reset, launch and the invariant -/

/-- DERIVED (10_state.md section 9). Reset: the values the source states (`pc`, halt flag, selector, call
stack, memory), and the zeros of the spec's decisions D5 and D6 (notes/assumptions/6.md, 7.md). -/
def Obligations.ResetHasTheStatedValues : Prop :=
  State.reset.pc = 0 ∧ State.reset.halted = false ∧ State.reset.sel = 0 ∧ State.reset.sp = 0 ∧
  (∀ a, State.reset.mem.read a = 0) ∧ (∀ r, State.reset.reg r = 0) ∧
  (∀ j, State.reset.slot j = 0) ∧ State.reset.exitCode = 0 ∧ State.reset.haltCause = .none ∧
  State.reset.faultAddr = 0 ∧ State.reset.faultWord = 0 ∧ State.reset.out = []

/-- DERIVED (20_memory.md section 8; the spec's decision D20). The image stands from address 0 on with zeros
above it, everything else as after reset; a longer image is refused. -/
def Obligations.LaunchPlacesTheImage : Prop :=
  ∀ l : Launch,
    (l.image.length ≤ 65536 →
      ∃ s, l.run = .next s ∧ (∀ a, s.mem.read a = l.image.getD a 0) ∧ s.mem.wf = true ∧
        s = { State.reset with
          mem := s.mem, inLines := l.inLines, inEnded := l.inEnded, irq := l.irq, cfg := l.cfg }) ∧
    (65536 < l.image.length → l.run = .refused .imageTooLong)

/-- DERIVED (the model's invariant). The reset state and every launch with settings inside their constraint
meet the invariant. -/
def Obligations.ResetAndLaunchMeetTheInvariant : Prop :=
  State.reset.Inv ∧ ∀ (l : Launch) (s : State), l.cfg.wf = true → l.run = .next s → s.Inv

/-- DERIVED (10_state.md sections 4 to 6, 60_exceptions.md section 2). Every step from a state that meets the
invariant leads to one that meets it: memory canonical, `sp` within the capacity, `pc` at most 65,539, the
halt registers consistent, and the fault record true of memory. -/
def Obligations.StepKeepsTheInvariant : Prop :=
  ∀ s t : State, s.Inv → step s = .next t → t.Inv

/-- DERIVED (00_scope.md section 3; the spec's decision D13). The statuses of the five causes the spec leaves
open are pairwise distinct, whatever the numbers. -/
def Obligations.ExitStatusesAreDistinct : Prop :=
  ∀ c d : HaltCause,
    c ∈ [HaltCause.fetchEnd, .decodeError, .runtimeError, .stackOverflow, .stackUnderflow] →
    d ∈ [HaltCause.fetchEnd, .decodeError, .runtimeError, .stackOverflow, .stackUnderflow] →
    statusOf c = statusOf d → c = d
end

