-- ==== Sys2Proof/Laws/Decode.lean ====
section
/-! SUPPORT. The fields of a word as parts of its number, and the fields of each format. -/

namespace Sys2Proof

variable (w : InstrWord)

theorem fieldOP_toNat : (fieldOP w).toNat = w.toNat / 65536 := by
  have := w.isLt
  simp only [fieldOP, BitVec.extractLsb'_toNat, Nat.shiftRight_eq_div_pow]
  omega

theorem fieldX_toNat : (fieldX w).toNat = w.toNat / 4096 % 16 := by
  simp [fieldX, BitVec.extractLsb'_toNat, Nat.shiftRight_eq_div_pow]

theorem fieldY_toNat : (fieldY w).toNat = w.toNat / 256 % 16 := by
  simp [fieldY, BitVec.extractLsb'_toNat, Nat.shiftRight_eq_div_pow]

theorem fieldMMMM_toNat : (fieldMMMM w).toNat = w.toNat % 65536 := by
  simp [fieldMMMM, BitVec.extractLsb'_toNat]

theorem fieldNNN_toNat : (fieldNNN w).toNat = w.toNat % 4096 := by
  simp [fieldNNN, BitVec.extractLsb'_toNat]

theorem fieldK_toNat : (fieldK w).toNat = w.toNat % 16 := by
  simp [fieldK, BitVec.extractLsb'_toNat]

theorem wordOfBytes_toNat (b0 b1 b2 : Byte) :
    (wordOfBytes b0 b1 b2).toNat = b0.toNat * 65536 + b1.toNat * 256 + b2.toNat := by
  have := b0.isLt
  have := b1.isLt
  have := b2.isLt
  simp only [wordOfBytes, BitVec.toNat_append]
  rw [← Nat.shiftLeft_add_eq_or_of_lt b1.isLt, ← Nat.shiftLeft_add_eq_or_of_lt b2.isLt]
  simp only [Nat.shiftLeft_eq]
  omega

/-- The bytes of a word made of three bytes are those bytes. -/
theorem wordBytes_wordOfBytes (b0 b1 b2 : Byte) : wordBytes (wordOfBytes b0 b1 b2) = [b0, b1, b2] := by
  have h0 := b0.isLt
  have h1 := b1.isLt
  have h2 := b2.isLt
  have e := wordOfBytes_toNat b0 b1 b2
  simp only [wordBytes, List.cons.injEq, and_true]
  refine ⟨?_, ?_, ?_⟩ <;>
    (apply BitVec.eq_of_toNat_eq
     rw [BitVec.extractLsb'_toNat, e, Nat.shiftRight_eq_div_pow]
     omega)

@[simp] theorem nibbleToId_idToNibble (r : Fin 16) : nibbleToId (idToNibble r) = r := by
  have := r.isLt
  apply Fin.ext
  simp only [nibbleToId, idToNibble, BitVec.toNat_ofNat]
  omega

@[simp] theorem idToNibble_nibbleToId (b : BitVec 4) : idToNibble (nibbleToId b) = b := by
  apply BitVec.eq_of_toNat_eq
  simp [nibbleToId, idToNibble]

theorem formatM_toNat (op : Byte) (m : BitVec 16) :
    (formatM op m).toNat = op.toNat * 65536 + m.toNat := by
  simp only [formatM, BitVec.toNat_append]
  rw [← Nat.shiftLeft_add_eq_or_of_lt m.isLt, Nat.shiftLeft_eq]

theorem formatXN_toNat (op : Byte) (x : BitVec 4) (n : BitVec 12) :
    (formatXN op x n).toNat = op.toNat * 65536 + x.toNat * 4096 + n.toNat := by
  simp only [formatXN, BitVec.toNat_append]
  rw [← Nat.shiftLeft_add_eq_or_of_lt x.isLt, ← Nat.shiftLeft_add_eq_or_of_lt n.isLt]
  simp only [Nat.shiftLeft_eq]
  omega

theorem formatXYK_toNat (op : Byte) (x y k : BitVec 4) :
    (formatXYK op x y k).toNat = op.toNat * 65536 + x.toNat * 4096 + y.toNat * 256 + k.toNat := by
  simp only [formatXYK, BitVec.toNat_append]
  rw [← Nat.shiftLeft_add_eq_or_of_lt x.isLt, ← Nat.shiftLeft_add_eq_or_of_lt y.isLt,
    ← Nat.shiftLeft_add_eq_or_of_lt (0#4).isLt, ← Nat.shiftLeft_add_eq_or_of_lt k.isLt]
  simp only [Nat.shiftLeft_eq, BitVec.toNat_ofNat]
  omega

theorem formatXK_toNat (op : Byte) (x k : BitVec 4) :
    (formatXK op x k).toNat = op.toNat * 65536 + x.toNat * 4096 + k.toNat := by
  simp only [formatXK, BitVec.toNat_append]
  rw [← Nat.shiftLeft_add_eq_or_of_lt x.isLt,
    ← Nat.shiftLeft_add_eq_or_of_lt (0#8).isLt, ← Nat.shiftLeft_add_eq_or_of_lt k.isLt]
  simp only [Nat.shiftLeft_eq, BitVec.toNat_ofNat]
  omega

theorem formatK_toNat (op : Byte) (k : BitVec 4) :
    (formatK op k).toNat = op.toNat * 65536 + k.toNat := by
  simp only [formatK, BitVec.toNat_append]
  rw [← Nat.shiftLeft_add_eq_or_of_lt (0#12).isLt, ← Nat.shiftLeft_add_eq_or_of_lt k.isLt]
  simp only [Nat.shiftLeft_eq, BitVec.toNat_ofNat]
  omega

theorem formatZ_toNat (op : Byte) : (formatZ op).toNat = op.toNat * 65536 := by
  simp only [formatZ, BitVec.toNat_append]
  rw [← Nat.shiftLeft_add_eq_or_of_lt (0#16).isLt]
  simp only [Nat.shiftLeft_eq, BitVec.toNat_ofNat]
  omega

/-! ### The formats under the masks of 30_encoding.md R91 -/

theorem formatM_and_opcode (op : Byte) (m : BitVec 16) :
    formatM op m &&& 0xFF0000 = formatM op 0 := by
  change (op ++ m) &&& (BitVec.allOnes 8 ++ 0#16) = op ++ 0#16
  rw [BitVec.and_append]
  simp only [BitVec.and_allOnes, BitVec.and_zero]

theorem formatXN_and_opcode (op : Byte) (x : BitVec 4) (n : BitVec 12) :
    formatXN op x n &&& 0xFF0000 = formatXN op 0 0 := by
  change (op ++ x ++ n) &&& (BitVec.allOnes 8 ++ 0#4 ++ 0#12) = op ++ 0#4 ++ 0#12
  rw [BitVec.and_append, BitVec.and_append]
  simp only [BitVec.and_allOnes, BitVec.and_zero]

theorem formatXN_and_opcode_x (op : Byte) (x : BitVec 4) (n : BitVec 12) :
    formatXN op x n &&& 0xFFF000 = formatXN op x 0 := by
  change (op ++ x ++ n) &&& (BitVec.allOnes 8 ++ BitVec.allOnes 4 ++ 0#12) = op ++ x ++ 0#12
  rw [BitVec.and_append, BitVec.and_append]
  simp only [BitVec.and_allOnes, BitVec.and_zero]

theorem formatXK_and_opcode_k (op : Byte) (x k : BitVec 4) :
    formatXK op x k &&& 0xFF000F = formatXK op 0 k := by
  change (op ++ x ++ 0#8 ++ k) &&& (BitVec.allOnes 8 ++ 0#4 ++ 0#8 ++ BitVec.allOnes 4) = op ++ 0#4 ++ 0#8 ++ k
  rw [BitVec.and_append, BitVec.and_append, BitVec.and_append]
  simp only [BitVec.and_allOnes, BitVec.and_zero]

theorem formatXK_and_ignored (op : Byte) (x k : BitVec 4) :
    formatXK op x k &&& 0x000FF0 = 0 := by
  change (op ++ x ++ 0#8 ++ k) &&& (0#8 ++ 0#4 ++ BitVec.allOnes 8 ++ 0#4) = 0#8 ++ 0#4 ++ 0#8 ++ 0#4
  rw [BitVec.and_append, BitVec.and_append, BitVec.and_append]
  simp only [BitVec.and_allOnes, BitVec.and_zero]

theorem formatXYK_and_opcode_k (op : Byte) (x y k : BitVec 4) :
    formatXYK op x y k &&& 0xFF000F = formatXYK op 0 0 k := by
  change (op ++ x ++ y ++ 0#4 ++ k) &&& (BitVec.allOnes 8 ++ 0#4 ++ 0#4 ++ 0#4 ++ BitVec.allOnes 4) =
    op ++ 0#4 ++ 0#4 ++ 0#4 ++ k
  rw [BitVec.and_append, BitVec.and_append, BitVec.and_append, BitVec.and_append]
  simp only [BitVec.and_allOnes, BitVec.and_zero]

theorem formatXYK_and_ignored (op : Byte) (x y k : BitVec 4) :
    formatXYK op x y k &&& 0x0000F0 = 0 := by
  change (op ++ x ++ y ++ 0#4 ++ k) &&& (0#8 ++ 0#4 ++ 0#4 ++ BitVec.allOnes 4 ++ 0#4) =
    0#8 ++ 0#4 ++ 0#4 ++ 0#4 ++ 0#4
  rw [BitVec.and_append, BitVec.and_append, BitVec.and_append, BitVec.and_append]
  simp only [BitVec.and_allOnes, BitVec.and_zero]

theorem formatK_and_opcode (op : Byte) (k : BitVec 4) :
    formatK op k &&& 0xFF0000 = formatK op 0 := by
  change (op ++ 0#12 ++ k) &&& (BitVec.allOnes 8 ++ 0#12 ++ 0#4) = op ++ 0#12 ++ 0#4
  rw [BitVec.and_append, BitVec.and_append]
  simp only [BitVec.and_allOnes, BitVec.and_zero]

theorem formatK_and_ignored (op : Byte) (k : BitVec 4) :
    formatK op k &&& 0x00FFF0 = 0 := by
  change (op ++ 0#12 ++ k) &&& (0#8 ++ BitVec.allOnes 12 ++ 0#4) = 0#8 ++ 0#12 ++ 0#4
  rw [BitVec.and_append, BitVec.and_append]
  simp only [BitVec.and_allOnes, BitVec.and_zero]

end Sys2Proof
end

