-- ==== Sys2Proof/Laws/Memory.lean ====
section
/-! SUPPORT. The laws of memory: what a read sees after each write, and that every operation keeps the
canonical form. -/

namespace Sys2Proof.Machine

/-! ### Reads -/

@[simp] theorem Memory.read_nil (a : Nat) : Memory.read [] a = 0 := rfl

theorem Memory.read_cons (k : Nat) (v : Byte) (m : Memory) (a : Nat) :
    Memory.read ((k, v) :: m) a = if a = k then v else Memory.read m a := rfl

/-- An address without an entry reads as 0. -/
theorem Memory.read_eq_zero (m : Memory) (a : Nat) (h : ∀ c ∈ m, c.1 ≠ a) : m.read a = 0 := by
  induction m with
  | nil => rfl
  | cons cell rest ih =>
    obtain ⟨k, v⟩ := cell
    have hk : a ≠ k := fun e => h (k, v) (by simp) e.symm
    rw [Memory.read_cons, if_neg hk]
    exact ih fun c hc => h c (by simp [hc])

theorem Memory.clear_cons (k : Nat) (v : Byte) (m : Memory) (a : Nat) :
    Memory.clear ((k, v) :: m) a = if k = a then m.clear a else (k, v) :: m.clear a := by
  by_cases h : k = a <;> simp [Memory.clear, h]

theorem Memory.clear_no_key (m : Memory) (a : Nat) : ∀ c ∈ m.clear a, c.1 ≠ a := by
  simp [Memory.clear]

theorem Memory.read_clear (m : Memory) (a c : Nat) :
    (m.clear a).read c = if c = a then 0 else m.read c := by
  induction m with
  | nil => simp [Memory.clear]
  | cons cell rest ih =>
    obtain ⟨k, v⟩ := cell
    rw [Memory.clear_cons, Memory.read_cons]
    split
    · next h => rw [ih]; split <;> simp_all
    · next h => rw [Memory.read_cons, ih]; split <;> split <;> simp_all

theorem Memory.read_place (m : Memory) (a c : Nat) (b : Byte) (h : ∀ d ∈ m, d.1 ≠ a) :
    (m.place a b).read c = if c = a then b else m.read c := by
  induction m with
  | nil => simp [Memory.place, Memory.read_cons]
  | cons cell rest ih =>
    obtain ⟨k, v⟩ := cell
    have hk : k ≠ a := h (k, v) (by simp)
    rw [Memory.place]
    split
    · rw [Memory.read_cons]
    · rw [Memory.read_cons, ih fun d hd => h d (by simp [hd]), Memory.read_cons]
      split <;> split <;> simp_all

/-- A read returns the value of the write to its own address, and is not touched by any other. -/
theorem Memory.read_write (m : Memory) (a c : Nat) (b : Byte) :
    (m.write a b).read c = if c = a then b else m.read c := by
  unfold Memory.write
  split
  · next h => rw [Memory.read_clear, h]
  · rw [Memory.read_place _ _ _ _ (Memory.clear_no_key m a), Memory.read_clear]
    split <;> rfl

theorem Memory.writeCells_nil (m : Memory) : m.writeCells [] = m := rfl

theorem Memory.writeCells_cons (m : Memory) (a : Nat) (b : Byte) (cells : List Host.Cell) :
    m.writeCells ((a, b) :: cells) = (m.write a b).writeCells cells := rfl

/-- A cell no pair addresses is kept. -/
theorem Memory.read_writeCells_other (m : Memory) (cells : List Host.Cell) (c : Nat)
    (h : ∀ d ∈ cells, d.1 ≠ c) : (m.writeCells cells).read c = m.read c := by
  induction cells generalizing m with
  | nil => rfl
  | cons cell rest ih =>
    obtain ⟨a, b⟩ := cell
    have ha : c ≠ a := fun e => h (a, b) (by simp) e.symm
    rw [Memory.writeCells_cons, ih _ fun d hd => h d (by simp [hd]), Memory.read_write, if_neg ha]

/-- With distinct addresses, each pair's address reads as the pair's byte. -/
theorem Memory.read_writeCells_mem (m : Memory) (cells : List Host.Cell) (a : Nat) (b : Byte)
    (hd : (cells.map Prod.fst).Nodup) (h : (a, b) ∈ cells) : (m.writeCells cells).read a = b := by
  induction cells generalizing m with
  | nil => simp at h
  | cons cell rest ih =>
    obtain ⟨k, v⟩ := cell
    rw [List.map_cons, List.nodup_cons] at hd
    rw [Memory.writeCells_cons]
    rcases List.mem_cons.mp h with e | hr
    · obtain ⟨rfl, rfl⟩ := Prod.mk.injEq .. ▸ e
      rw [Memory.read_writeCells_other, Memory.read_write, if_pos rfl]
      intro d hdm e
      exact hd.1 (List.mem_map.mpr ⟨d, hdm, e⟩)
    · exact ih _ hd.2 hr

/-- Consecutive bytes from `a` on. -/
theorem Memory.read_writeCells_cellsFrom (m : Memory) (a : Nat) (bs : List Byte) (c : Nat) :
    (m.writeCells (cellsFrom a bs)).read c =
      if a ≤ c then bs.getD (c - a) (m.read c) else m.read c := by
  induction bs generalizing m a with
  | nil => simp [cellsFrom, Memory.writeCells_nil]
  | cons b bs ih =>
    rw [cellsFrom, Memory.writeCells_cons, ih, Memory.read_write]
    by_cases h1 : c = a
    · subst h1; simp
    · by_cases h2 : a ≤ c
      · obtain ⟨n, rfl⟩ : ∃ n, c = a + 1 + n := ⟨c - (a + 1), by omega⟩
        have e : a + 1 + n - a = n + 1 := by omega
        simp [h1, h2, e]
      · have h3 : ¬ a + 1 ≤ c := by omega
        simp [h1, h2, h3]

@[simp] theorem Memory.readRange_length (m : Memory) (a n : Nat) : (m.readRange a n).length = n := by
  induction n generalizing a with
  | zero => rfl
  | succ n ih => simp [Memory.readRange, ih]

theorem Memory.readRange_getElem? (m : Memory) (a n k : Nat) :
    (m.readRange a n)[k]? = if k < n then some (m.read (a + k)) else none := by
  induction n generalizing a k with
  | zero => simp [Memory.readRange]
  | succ n ih =>
    cases k with
    | zero => simp [Memory.readRange]
    | succ k => simp [Memory.readRange, ih, Nat.add_assoc, Nat.add_comm 1 k]

/-! ### The canonical form -/

theorem Memory.wfFrom_cons (lo k : Nat) (v : Byte) (m : Memory) :
    Memory.wfFrom lo ((k, v) :: m) = true ↔
      lo ≤ k ∧ k < 65536 ∧ v ≠ 0 ∧ Memory.wfFrom (k + 1) m = true := by
  simp [Memory.wfFrom, and_assoc]

theorem Memory.wfFrom_mono {lo lo' : Nat} {m : Memory} (hle : lo' ≤ lo)
    (h : Memory.wfFrom lo m = true) : Memory.wfFrom lo' m = true := by
  cases m with
  | nil => rfl
  | cons cell rest =>
    obtain ⟨k, v⟩ := cell
    rw [Memory.wfFrom_cons] at h ⊢
    exact ⟨by omega, h.2⟩

/-- In the canonical form from `lo` on, every address is at least `lo` and below 65,536. -/
theorem Memory.wfFrom_mem {lo : Nat} {m : Memory} (h : Memory.wfFrom lo m = true) :
    ∀ c ∈ m, lo ≤ c.1 ∧ c.1 < 65536 := by
  induction m generalizing lo with
  | nil => simp
  | cons cell rest ih =>
    obtain ⟨k, v⟩ := cell
    rw [Memory.wfFrom_cons] at h
    intro c hc
    rcases List.mem_cons.mp hc with rfl | hc
    · exact ⟨h.1, h.2.1⟩
    · have := ih h.2.2.2 c hc; omega

theorem Memory.clear_wfFrom {lo : Nat} {m : Memory} (a : Nat) (h : Memory.wfFrom lo m = true) :
    Memory.wfFrom lo (m.clear a) = true := by
  induction m generalizing lo with
  | nil => rfl
  | cons cell rest ih =>
    obtain ⟨k, v⟩ := cell
    rw [Memory.wfFrom_cons] at h
    rw [Memory.clear_cons]
    split
    · exact Memory.wfFrom_mono (by omega) (ih h.2.2.2)
    · rw [Memory.wfFrom_cons]; exact ⟨h.1, h.2.1, h.2.2.1, ih h.2.2.2⟩

theorem Memory.place_wfFrom {lo : Nat} {m : Memory} {a : Nat} {b : Byte}
    (h : Memory.wfFrom lo m = true) (hlo : lo ≤ a) (ha : a < 65536) (hb : b ≠ 0)
    (hk : ∀ c ∈ m, c.1 ≠ a) : Memory.wfFrom lo (m.place a b) = true := by
  induction m generalizing lo with
  | nil => rw [Memory.place, Memory.wfFrom_cons]; exact ⟨hlo, ha, hb, rfl⟩
  | cons cell rest ih =>
    obtain ⟨k, v⟩ := cell
    have hne : k ≠ a := hk (k, v) (by simp)
    rw [Memory.wfFrom_cons] at h
    rw [Memory.place]
    split
    · rw [Memory.wfFrom_cons, Memory.wfFrom_cons]
      exact ⟨hlo, ha, hb, by omega, h.2⟩
    · rw [Memory.wfFrom_cons]
      exact ⟨h.1, h.2.1, h.2.2.1, ih h.2.2.2 (by omega) fun c hc => hk c (by simp [hc])⟩

/-- A write inside the address space keeps the canonical form. -/
theorem Memory.write_wf {m : Memory} {a : Nat} (b : Byte) (h : m.wf = true) (ha : a < 65536) :
    (m.write a b).wf = true := by
  unfold Memory.write
  split
  · exact Memory.clear_wfFrom a h
  · next hb =>
    exact Memory.place_wfFrom (Memory.clear_wfFrom a h) (Nat.zero_le a) ha hb (Memory.clear_no_key m a)

theorem Memory.writeCells_wf {m : Memory} {cells : List Host.Cell} (h : m.wf = true)
    (hc : ∀ c ∈ cells, c.1 < 65536) : (m.writeCells cells).wf = true := by
  induction cells generalizing m with
  | nil => exact h
  | cons cell rest ih =>
    exact ih (Memory.write_wf cell.2 h (hc cell (by simp))) fun c hm => hc c (by simp [hm])

theorem cellsFrom_mem {a : Nat} {bs : List Byte} :
    ∀ c ∈ cellsFrom a bs, a ≤ c.1 ∧ c.1 < a + bs.length := by
  induction bs generalizing a with
  | nil => simp [cellsFrom]
  | cons b bs ih =>
    intro c hc
    rcases List.mem_cons.mp hc with rfl | hc
    · simp
    · have := ih c hc; simp only [List.length_cons]; omega

/-! ### The Loader's memory -/

theorem Memory.read_filter_cellsFrom (a : Nat) (bs : List Byte) (c : Nat) :
    Memory.read ((cellsFrom a bs).filter fun d => decide (d.2 ≠ 0)) c =
      if a ≤ c then bs.getD (c - a) 0 else 0 := by
  induction bs generalizing a with
  | nil => simp [cellsFrom]
  | cons b bs ih =>
    have hstep : Memory.read ((cellsFrom a (b :: bs)).filter fun d => decide (d.2 ≠ 0)) c =
        if c = a ∧ b ≠ 0 then b
        else Memory.read ((cellsFrom (a + 1) bs).filter fun d => decide (d.2 ≠ 0)) c := by
      rw [cellsFrom, List.filter_cons]
      by_cases hb : b = 0
      · rw [if_neg (by simp [hb]), if_neg (by simp [hb])]
      · rw [if_pos (by simpa using hb), Memory.read_cons]
        by_cases hc : c = a
        · rw [if_pos hc, if_pos ⟨hc, hb⟩]
        · rw [if_neg hc, if_neg fun h => hc h.1]
    rw [hstep, ih]
    by_cases h1 : c = a
    · subst h1
      by_cases hb : b = 0
      · simp [hb]
      · rw [if_pos ⟨rfl, hb⟩]; simp
    · by_cases h2 : a ≤ c
      · obtain ⟨n, rfl⟩ : ∃ n, c = a + 1 + n := ⟨c - (a + 1), by omega⟩
        have e : a + 1 + n - a = n + 1 := by omega
        simp [h1, h2, e]
      · have h3 : ¬ a + 1 ≤ c := by omega
        simp [h1, h2, h3]

theorem Memory.read_ofImage (image : List Byte) (a : Nat) :
    (Memory.ofImage image).read a = image.getD a 0 := by
  rw [Memory.ofImage, Memory.read_filter_cellsFrom, if_pos (Nat.zero_le a), Nat.sub_zero]

theorem Memory.filter_cellsFrom_wf (a : Nat) (bs : List Byte) (h : a + bs.length ≤ 65536) :
    Memory.wfFrom a ((cellsFrom a bs).filter fun d => decide (d.2 ≠ 0)) = true := by
  induction bs generalizing a with
  | nil => rfl
  | cons b bs ih =>
    rw [List.length_cons] at h
    have hrest := ih (a + 1) (by omega)
    rw [cellsFrom, List.filter_cons]
    split
    · next hb =>
      rw [Memory.wfFrom_cons]
      exact ⟨Nat.le_refl a, by omega, by simpa using hb, hrest⟩
    · exact Memory.wfFrom_mono (by omega) hrest

theorem Memory.ofImage_wf {image : List Byte} (h : image.length ≤ 65536) :
    (Memory.ofImage image).wf = true :=
  Memory.filter_cellsFrom_wf 0 image (by omega)

end Sys2Proof.Machine
end

