-- ==== Sys2Proof/Laws/State.lean ====
section
/-! SUPPORT. One lemma per field and per accessor of each update of State, so that no proof
unfolds a record update. -/

namespace Sys2Proof.Machine

variable (s : State)

/-! ### setReg -/

@[simp] theorem State.setReg_x (r : RegId) (v : Word) : (s.setReg r v).x = s.x.set r v := rfl
@[simp] theorem State.setReg_idx (r : RegId) (v : Word) : (s.setReg r v).idx = s.idx := rfl
@[simp] theorem State.setReg_sel (r : RegId) (v : Word) : (s.setReg r v).sel = s.sel := rfl
@[simp] theorem State.setReg_pc (r : RegId) (v : Word) : (s.setReg r v).pc = s.pc := rfl
@[simp] theorem State.setReg_stk (r : RegId) (v : Word) : (s.setReg r v).stk = s.stk := rfl
@[simp] theorem State.setReg_mem (r : RegId) (v : Word) : (s.setReg r v).mem = s.mem := rfl
@[simp] theorem State.setReg_halted (r : RegId) (v : Word) : (s.setReg r v).halted = s.halted := rfl
@[simp] theorem State.setReg_exitCode (r : RegId) (v : Word) : (s.setReg r v).exitCode = s.exitCode := rfl
@[simp] theorem State.setReg_haltCause (r : RegId) (v : Word) : (s.setReg r v).haltCause = s.haltCause := rfl
@[simp] theorem State.setReg_faultAddr (r : RegId) (v : Word) : (s.setReg r v).faultAddr = s.faultAddr := rfl
@[simp] theorem State.setReg_faultWord (r : RegId) (v : Word) : (s.setReg r v).faultWord = s.faultWord := rfl
@[simp] theorem State.setReg_out (r : RegId) (v : Word) : (s.setReg r v).out = s.out := rfl
@[simp] theorem State.setReg_inLines (r : RegId) (v : Word) : (s.setReg r v).inLines = s.inLines := rfl
@[simp] theorem State.setReg_inEnded (r : RegId) (v : Word) : (s.setReg r v).inEnded = s.inEnded := rfl
@[simp] theorem State.setReg_irq (r : RegId) (v : Word) : (s.setReg r v).irq = s.irq := rfl
@[simp] theorem State.setReg_cfg (r : RegId) (v : Word) : (s.setReg r v).cfg = s.cfg := rfl
@[simp] theorem State.setReg_slot (r : RegId) (v : Word) (j : SlotId) : (s.setReg r v).slot j = s.slot j := rfl
@[simp] theorem State.setReg_cur (r : RegId) (v : Word) : (s.setReg r v).cur = s.cur := rfl
@[simp] theorem State.setReg_sp (r : RegId) (v : Word) : (s.setReg r v).sp = s.sp := rfl
@[simp] theorem State.setReg_topReturn (r : RegId) (v : Word) : (s.setReg r v).topReturn = s.topReturn := rfl
@[simp] theorem State.setReg_irqNow (r : RegId) (v : Word) : (s.setReg r v).irqNow = s.irqNow := rfl

/-! ### setRegsUpTo -/

@[simp] theorem State.setRegsUpTo_x (last : RegId) (f : RegId → Word) : (s.setRegsUpTo last f).x = Vector.ofFn fun r => if r ≤ last then f r else s.reg r := rfl
@[simp] theorem State.setRegsUpTo_idx (last : RegId) (f : RegId → Word) : (s.setRegsUpTo last f).idx = s.idx := by simp only [State.setRegsUpTo]
@[simp] theorem State.setRegsUpTo_sel (last : RegId) (f : RegId → Word) : (s.setRegsUpTo last f).sel = s.sel := by simp only [State.setRegsUpTo]
@[simp] theorem State.setRegsUpTo_pc (last : RegId) (f : RegId → Word) : (s.setRegsUpTo last f).pc = s.pc := by simp only [State.setRegsUpTo]
@[simp] theorem State.setRegsUpTo_stk (last : RegId) (f : RegId → Word) : (s.setRegsUpTo last f).stk = s.stk := by simp only [State.setRegsUpTo]
@[simp] theorem State.setRegsUpTo_mem (last : RegId) (f : RegId → Word) : (s.setRegsUpTo last f).mem = s.mem := by simp only [State.setRegsUpTo]
@[simp] theorem State.setRegsUpTo_halted (last : RegId) (f : RegId → Word) : (s.setRegsUpTo last f).halted = s.halted := by simp only [State.setRegsUpTo]
@[simp] theorem State.setRegsUpTo_exitCode (last : RegId) (f : RegId → Word) : (s.setRegsUpTo last f).exitCode = s.exitCode := by simp only [State.setRegsUpTo]
@[simp] theorem State.setRegsUpTo_haltCause (last : RegId) (f : RegId → Word) : (s.setRegsUpTo last f).haltCause = s.haltCause := by simp only [State.setRegsUpTo]
@[simp] theorem State.setRegsUpTo_faultAddr (last : RegId) (f : RegId → Word) : (s.setRegsUpTo last f).faultAddr = s.faultAddr := by simp only [State.setRegsUpTo]
@[simp] theorem State.setRegsUpTo_faultWord (last : RegId) (f : RegId → Word) : (s.setRegsUpTo last f).faultWord = s.faultWord := by simp only [State.setRegsUpTo]
@[simp] theorem State.setRegsUpTo_out (last : RegId) (f : RegId → Word) : (s.setRegsUpTo last f).out = s.out := by simp only [State.setRegsUpTo]
@[simp] theorem State.setRegsUpTo_inLines (last : RegId) (f : RegId → Word) : (s.setRegsUpTo last f).inLines = s.inLines := by simp only [State.setRegsUpTo]
@[simp] theorem State.setRegsUpTo_inEnded (last : RegId) (f : RegId → Word) : (s.setRegsUpTo last f).inEnded = s.inEnded := by simp only [State.setRegsUpTo]
@[simp] theorem State.setRegsUpTo_irq (last : RegId) (f : RegId → Word) : (s.setRegsUpTo last f).irq = s.irq := by simp only [State.setRegsUpTo]
@[simp] theorem State.setRegsUpTo_cfg (last : RegId) (f : RegId → Word) : (s.setRegsUpTo last f).cfg = s.cfg := by simp only [State.setRegsUpTo]
@[simp] theorem State.setRegsUpTo_slot (last : RegId) (f : RegId → Word) (j : SlotId) : (s.setRegsUpTo last f).slot j = s.slot j := by simp only [State.setRegsUpTo, State.slot]
@[simp] theorem State.setRegsUpTo_cur (last : RegId) (f : RegId → Word) : (s.setRegsUpTo last f).cur = s.cur := by simp only [State.setRegsUpTo, State.cur, State.slot]
@[simp] theorem State.setRegsUpTo_sp (last : RegId) (f : RegId → Word) : (s.setRegsUpTo last f).sp = s.sp := by simp only [State.setRegsUpTo, State.sp]
@[simp] theorem State.setRegsUpTo_topReturn (last : RegId) (f : RegId → Word) : (s.setRegsUpTo last f).topReturn = s.topReturn := by simp only [State.setRegsUpTo, State.topReturn]
@[simp] theorem State.setRegsUpTo_irqNow (last : RegId) (f : RegId → Word) : (s.setRegsUpTo last f).irqNow = s.irqNow := by simp only [State.setRegsUpTo, State.irqNow]

/-! ### setCur -/

@[simp] theorem State.setCur_x (v : Addr) : (s.setCur v).x = s.x := rfl
@[simp] theorem State.setCur_idx (v : Addr) : (s.setCur v).idx = s.idx.set s.sel v := rfl
@[simp] theorem State.setCur_sel (v : Addr) : (s.setCur v).sel = s.sel := rfl
@[simp] theorem State.setCur_pc (v : Addr) : (s.setCur v).pc = s.pc := rfl
@[simp] theorem State.setCur_stk (v : Addr) : (s.setCur v).stk = s.stk := rfl
@[simp] theorem State.setCur_mem (v : Addr) : (s.setCur v).mem = s.mem := rfl
@[simp] theorem State.setCur_halted (v : Addr) : (s.setCur v).halted = s.halted := rfl
@[simp] theorem State.setCur_exitCode (v : Addr) : (s.setCur v).exitCode = s.exitCode := rfl
@[simp] theorem State.setCur_haltCause (v : Addr) : (s.setCur v).haltCause = s.haltCause := rfl
@[simp] theorem State.setCur_faultAddr (v : Addr) : (s.setCur v).faultAddr = s.faultAddr := rfl
@[simp] theorem State.setCur_faultWord (v : Addr) : (s.setCur v).faultWord = s.faultWord := rfl
@[simp] theorem State.setCur_out (v : Addr) : (s.setCur v).out = s.out := rfl
@[simp] theorem State.setCur_inLines (v : Addr) : (s.setCur v).inLines = s.inLines := rfl
@[simp] theorem State.setCur_inEnded (v : Addr) : (s.setCur v).inEnded = s.inEnded := rfl
@[simp] theorem State.setCur_irq (v : Addr) : (s.setCur v).irq = s.irq := rfl
@[simp] theorem State.setCur_cfg (v : Addr) : (s.setCur v).cfg = s.cfg := rfl
@[simp] theorem State.setCur_reg (v : Addr) (q : RegId) : (s.setCur v).reg q = s.reg q := rfl
@[simp] theorem State.setCur_sp (v : Addr) : (s.setCur v).sp = s.sp := rfl
@[simp] theorem State.setCur_topReturn (v : Addr) : (s.setCur v).topReturn = s.topReturn := rfl
@[simp] theorem State.setCur_irqNow (v : Addr) : (s.setCur v).irqNow = s.irqNow := rfl

/-! ### setSel -/

@[simp] theorem State.setSel_x (k : SlotId) : (s.setSel k).x = s.x := rfl
@[simp] theorem State.setSel_idx (k : SlotId) : (s.setSel k).idx = s.idx := rfl
@[simp] theorem State.setSel_sel (k : SlotId) : (s.setSel k).sel = k := rfl
@[simp] theorem State.setSel_pc (k : SlotId) : (s.setSel k).pc = s.pc := rfl
@[simp] theorem State.setSel_stk (k : SlotId) : (s.setSel k).stk = s.stk := rfl
@[simp] theorem State.setSel_mem (k : SlotId) : (s.setSel k).mem = s.mem := rfl
@[simp] theorem State.setSel_halted (k : SlotId) : (s.setSel k).halted = s.halted := rfl
@[simp] theorem State.setSel_exitCode (k : SlotId) : (s.setSel k).exitCode = s.exitCode := rfl
@[simp] theorem State.setSel_haltCause (k : SlotId) : (s.setSel k).haltCause = s.haltCause := rfl
@[simp] theorem State.setSel_faultAddr (k : SlotId) : (s.setSel k).faultAddr = s.faultAddr := rfl
@[simp] theorem State.setSel_faultWord (k : SlotId) : (s.setSel k).faultWord = s.faultWord := rfl
@[simp] theorem State.setSel_out (k : SlotId) : (s.setSel k).out = s.out := rfl
@[simp] theorem State.setSel_inLines (k : SlotId) : (s.setSel k).inLines = s.inLines := rfl
@[simp] theorem State.setSel_inEnded (k : SlotId) : (s.setSel k).inEnded = s.inEnded := rfl
@[simp] theorem State.setSel_irq (k : SlotId) : (s.setSel k).irq = s.irq := rfl
@[simp] theorem State.setSel_cfg (k : SlotId) : (s.setSel k).cfg = s.cfg := rfl
@[simp] theorem State.setSel_reg (k : SlotId) (q : RegId) : (s.setSel k).reg q = s.reg q := rfl
@[simp] theorem State.setSel_slot (k : SlotId) (j : SlotId) : (s.setSel k).slot j = s.slot j := rfl
@[simp] theorem State.setSel_sp (k : SlotId) : (s.setSel k).sp = s.sp := rfl
@[simp] theorem State.setSel_topReturn (k : SlotId) : (s.setSel k).topReturn = s.topReturn := rfl
@[simp] theorem State.setSel_irqNow (k : SlotId) : (s.setSel k).irqNow = s.irqNow := rfl

/-! ### setPc -/

@[simp] theorem State.setPc_x (p : PcWord) : (s.setPc p).x = s.x := rfl
@[simp] theorem State.setPc_idx (p : PcWord) : (s.setPc p).idx = s.idx := rfl
@[simp] theorem State.setPc_sel (p : PcWord) : (s.setPc p).sel = s.sel := rfl
@[simp] theorem State.setPc_pc (p : PcWord) : (s.setPc p).pc = p := rfl
@[simp] theorem State.setPc_stk (p : PcWord) : (s.setPc p).stk = s.stk := rfl
@[simp] theorem State.setPc_mem (p : PcWord) : (s.setPc p).mem = s.mem := rfl
@[simp] theorem State.setPc_halted (p : PcWord) : (s.setPc p).halted = s.halted := rfl
@[simp] theorem State.setPc_exitCode (p : PcWord) : (s.setPc p).exitCode = s.exitCode := rfl
@[simp] theorem State.setPc_haltCause (p : PcWord) : (s.setPc p).haltCause = s.haltCause := rfl
@[simp] theorem State.setPc_faultAddr (p : PcWord) : (s.setPc p).faultAddr = s.faultAddr := rfl
@[simp] theorem State.setPc_faultWord (p : PcWord) : (s.setPc p).faultWord = s.faultWord := rfl
@[simp] theorem State.setPc_out (p : PcWord) : (s.setPc p).out = s.out := rfl
@[simp] theorem State.setPc_inLines (p : PcWord) : (s.setPc p).inLines = s.inLines := rfl
@[simp] theorem State.setPc_inEnded (p : PcWord) : (s.setPc p).inEnded = s.inEnded := rfl
@[simp] theorem State.setPc_irq (p : PcWord) : (s.setPc p).irq = s.irq := rfl
@[simp] theorem State.setPc_cfg (p : PcWord) : (s.setPc p).cfg = s.cfg := rfl
@[simp] theorem State.setPc_reg (p : PcWord) (q : RegId) : (s.setPc p).reg q = s.reg q := rfl
@[simp] theorem State.setPc_slot (p : PcWord) (j : SlotId) : (s.setPc p).slot j = s.slot j := rfl
@[simp] theorem State.setPc_cur (p : PcWord) : (s.setPc p).cur = s.cur := rfl
@[simp] theorem State.setPc_sp (p : PcWord) : (s.setPc p).sp = s.sp := rfl
@[simp] theorem State.setPc_topReturn (p : PcWord) : (s.setPc p).topReturn = s.topReturn := rfl
@[simp] theorem State.setPc_irqNow (p : PcWord) : (s.setPc p).irqNow = s.irqNow := rfl

/-! ### advance -/

@[simp] theorem State.advance_x : (s.advance).x = s.x := rfl
@[simp] theorem State.advance_idx : (s.advance).idx = s.idx := rfl
@[simp] theorem State.advance_sel : (s.advance).sel = s.sel := rfl
@[simp] theorem State.advance_pc : (s.advance).pc = s.pc + 3 := rfl
@[simp] theorem State.advance_stk : (s.advance).stk = s.stk := rfl
@[simp] theorem State.advance_mem : (s.advance).mem = s.mem := rfl
@[simp] theorem State.advance_halted : (s.advance).halted = s.halted := rfl
@[simp] theorem State.advance_exitCode : (s.advance).exitCode = s.exitCode := rfl
@[simp] theorem State.advance_haltCause : (s.advance).haltCause = s.haltCause := rfl
@[simp] theorem State.advance_faultAddr : (s.advance).faultAddr = s.faultAddr := rfl
@[simp] theorem State.advance_faultWord : (s.advance).faultWord = s.faultWord := rfl
@[simp] theorem State.advance_out : (s.advance).out = s.out := rfl
@[simp] theorem State.advance_inLines : (s.advance).inLines = s.inLines := rfl
@[simp] theorem State.advance_inEnded : (s.advance).inEnded = s.inEnded := rfl
@[simp] theorem State.advance_irq : (s.advance).irq = s.irq := rfl
@[simp] theorem State.advance_cfg : (s.advance).cfg = s.cfg := rfl
@[simp] theorem State.advance_reg (q : RegId) : (s.advance).reg q = s.reg q := rfl
@[simp] theorem State.advance_slot (j : SlotId) : (s.advance).slot j = s.slot j := rfl
@[simp] theorem State.advance_cur : (s.advance).cur = s.cur := rfl
@[simp] theorem State.advance_sp : (s.advance).sp = s.sp := rfl
@[simp] theorem State.advance_topReturn : (s.advance).topReturn = s.topReturn := rfl
@[simp] theorem State.advance_irqNow : (s.advance).irqNow = s.irqNow := rfl

/-! ### setMem -/

@[simp] theorem State.setMem_x (m : Memory) : (s.setMem m).x = s.x := rfl
@[simp] theorem State.setMem_idx (m : Memory) : (s.setMem m).idx = s.idx := rfl
@[simp] theorem State.setMem_sel (m : Memory) : (s.setMem m).sel = s.sel := rfl
@[simp] theorem State.setMem_pc (m : Memory) : (s.setMem m).pc = s.pc := rfl
@[simp] theorem State.setMem_stk (m : Memory) : (s.setMem m).stk = s.stk := rfl
@[simp] theorem State.setMem_mem (m : Memory) : (s.setMem m).mem = m := rfl
@[simp] theorem State.setMem_halted (m : Memory) : (s.setMem m).halted = s.halted := rfl
@[simp] theorem State.setMem_exitCode (m : Memory) : (s.setMem m).exitCode = s.exitCode := rfl
@[simp] theorem State.setMem_haltCause (m : Memory) : (s.setMem m).haltCause = s.haltCause := rfl
@[simp] theorem State.setMem_faultAddr (m : Memory) : (s.setMem m).faultAddr = s.faultAddr := rfl
@[simp] theorem State.setMem_faultWord (m : Memory) : (s.setMem m).faultWord = s.faultWord := rfl
@[simp] theorem State.setMem_out (m : Memory) : (s.setMem m).out = s.out := rfl
@[simp] theorem State.setMem_inLines (m : Memory) : (s.setMem m).inLines = s.inLines := rfl
@[simp] theorem State.setMem_inEnded (m : Memory) : (s.setMem m).inEnded = s.inEnded := rfl
@[simp] theorem State.setMem_irq (m : Memory) : (s.setMem m).irq = s.irq := rfl
@[simp] theorem State.setMem_cfg (m : Memory) : (s.setMem m).cfg = s.cfg := rfl
@[simp] theorem State.setMem_reg (m : Memory) (q : RegId) : (s.setMem m).reg q = s.reg q := rfl
@[simp] theorem State.setMem_slot (m : Memory) (j : SlotId) : (s.setMem m).slot j = s.slot j := rfl
@[simp] theorem State.setMem_cur (m : Memory) : (s.setMem m).cur = s.cur := rfl
@[simp] theorem State.setMem_sp (m : Memory) : (s.setMem m).sp = s.sp := rfl
@[simp] theorem State.setMem_topReturn (m : Memory) : (s.setMem m).topReturn = s.topReturn := rfl
@[simp] theorem State.setMem_irqNow (m : Memory) : (s.setMem m).irqNow = s.irqNow := rfl

/-! ### pushReturn -/

@[simp] theorem State.pushReturn_x (a : PcWord) : (s.pushReturn a).x = s.x := rfl
@[simp] theorem State.pushReturn_idx (a : PcWord) : (s.pushReturn a).idx = s.idx := rfl
@[simp] theorem State.pushReturn_sel (a : PcWord) : (s.pushReturn a).sel = s.sel := rfl
@[simp] theorem State.pushReturn_pc (a : PcWord) : (s.pushReturn a).pc = s.pc := rfl
@[simp] theorem State.pushReturn_stk (a : PcWord) : (s.pushReturn a).stk = s.stk ++ [a] := rfl
@[simp] theorem State.pushReturn_mem (a : PcWord) : (s.pushReturn a).mem = s.mem := rfl
@[simp] theorem State.pushReturn_halted (a : PcWord) : (s.pushReturn a).halted = s.halted := rfl
@[simp] theorem State.pushReturn_exitCode (a : PcWord) : (s.pushReturn a).exitCode = s.exitCode := rfl
@[simp] theorem State.pushReturn_haltCause (a : PcWord) : (s.pushReturn a).haltCause = s.haltCause := rfl
@[simp] theorem State.pushReturn_faultAddr (a : PcWord) : (s.pushReturn a).faultAddr = s.faultAddr := rfl
@[simp] theorem State.pushReturn_faultWord (a : PcWord) : (s.pushReturn a).faultWord = s.faultWord := rfl
@[simp] theorem State.pushReturn_out (a : PcWord) : (s.pushReturn a).out = s.out := rfl
@[simp] theorem State.pushReturn_inLines (a : PcWord) : (s.pushReturn a).inLines = s.inLines := rfl
@[simp] theorem State.pushReturn_inEnded (a : PcWord) : (s.pushReturn a).inEnded = s.inEnded := rfl
@[simp] theorem State.pushReturn_irq (a : PcWord) : (s.pushReturn a).irq = s.irq := rfl
@[simp] theorem State.pushReturn_cfg (a : PcWord) : (s.pushReturn a).cfg = s.cfg := rfl
@[simp] theorem State.pushReturn_reg (a : PcWord) (q : RegId) : (s.pushReturn a).reg q = s.reg q := rfl
@[simp] theorem State.pushReturn_slot (a : PcWord) (j : SlotId) : (s.pushReturn a).slot j = s.slot j := rfl
@[simp] theorem State.pushReturn_cur (a : PcWord) : (s.pushReturn a).cur = s.cur := rfl
@[simp] theorem State.pushReturn_irqNow (a : PcWord) : (s.pushReturn a).irqNow = s.irqNow := rfl

/-! ### dropReturn -/

@[simp] theorem State.dropReturn_x : (s.dropReturn).x = s.x := rfl
@[simp] theorem State.dropReturn_idx : (s.dropReturn).idx = s.idx := rfl
@[simp] theorem State.dropReturn_sel : (s.dropReturn).sel = s.sel := rfl
@[simp] theorem State.dropReturn_pc : (s.dropReturn).pc = s.pc := rfl
@[simp] theorem State.dropReturn_stk : (s.dropReturn).stk = s.stk.dropLast := rfl
@[simp] theorem State.dropReturn_mem : (s.dropReturn).mem = s.mem := rfl
@[simp] theorem State.dropReturn_halted : (s.dropReturn).halted = s.halted := rfl
@[simp] theorem State.dropReturn_exitCode : (s.dropReturn).exitCode = s.exitCode := rfl
@[simp] theorem State.dropReturn_haltCause : (s.dropReturn).haltCause = s.haltCause := rfl
@[simp] theorem State.dropReturn_faultAddr : (s.dropReturn).faultAddr = s.faultAddr := rfl
@[simp] theorem State.dropReturn_faultWord : (s.dropReturn).faultWord = s.faultWord := rfl
@[simp] theorem State.dropReturn_out : (s.dropReturn).out = s.out := rfl
@[simp] theorem State.dropReturn_inLines : (s.dropReturn).inLines = s.inLines := rfl
@[simp] theorem State.dropReturn_inEnded : (s.dropReturn).inEnded = s.inEnded := rfl
@[simp] theorem State.dropReturn_irq : (s.dropReturn).irq = s.irq := rfl
@[simp] theorem State.dropReturn_cfg : (s.dropReturn).cfg = s.cfg := rfl
@[simp] theorem State.dropReturn_reg (q : RegId) : (s.dropReturn).reg q = s.reg q := rfl
@[simp] theorem State.dropReturn_slot (j : SlotId) : (s.dropReturn).slot j = s.slot j := rfl
@[simp] theorem State.dropReturn_cur : (s.dropReturn).cur = s.cur := rfl
@[simp] theorem State.dropReturn_irqNow : (s.dropReturn).irqNow = s.irqNow := rfl

/-! ### emit -/

@[simp] theorem State.emit_x (bs : List Byte) : (s.emit bs).x = s.x := rfl
@[simp] theorem State.emit_idx (bs : List Byte) : (s.emit bs).idx = s.idx := rfl
@[simp] theorem State.emit_sel (bs : List Byte) : (s.emit bs).sel = s.sel := rfl
@[simp] theorem State.emit_pc (bs : List Byte) : (s.emit bs).pc = s.pc := rfl
@[simp] theorem State.emit_stk (bs : List Byte) : (s.emit bs).stk = s.stk := rfl
@[simp] theorem State.emit_mem (bs : List Byte) : (s.emit bs).mem = s.mem := rfl
@[simp] theorem State.emit_halted (bs : List Byte) : (s.emit bs).halted = s.halted := rfl
@[simp] theorem State.emit_exitCode (bs : List Byte) : (s.emit bs).exitCode = s.exitCode := rfl
@[simp] theorem State.emit_haltCause (bs : List Byte) : (s.emit bs).haltCause = s.haltCause := rfl
@[simp] theorem State.emit_faultAddr (bs : List Byte) : (s.emit bs).faultAddr = s.faultAddr := rfl
@[simp] theorem State.emit_faultWord (bs : List Byte) : (s.emit bs).faultWord = s.faultWord := rfl
@[simp] theorem State.emit_out (bs : List Byte) : (s.emit bs).out = s.out ++ bs := rfl
@[simp] theorem State.emit_inLines (bs : List Byte) : (s.emit bs).inLines = s.inLines := rfl
@[simp] theorem State.emit_inEnded (bs : List Byte) : (s.emit bs).inEnded = s.inEnded := rfl
@[simp] theorem State.emit_irq (bs : List Byte) : (s.emit bs).irq = s.irq := rfl
@[simp] theorem State.emit_cfg (bs : List Byte) : (s.emit bs).cfg = s.cfg := rfl
@[simp] theorem State.emit_reg (bs : List Byte) (q : RegId) : (s.emit bs).reg q = s.reg q := rfl
@[simp] theorem State.emit_slot (bs : List Byte) (j : SlotId) : (s.emit bs).slot j = s.slot j := rfl
@[simp] theorem State.emit_cur (bs : List Byte) : (s.emit bs).cur = s.cur := rfl
@[simp] theorem State.emit_sp (bs : List Byte) : (s.emit bs).sp = s.sp := rfl
@[simp] theorem State.emit_topReturn (bs : List Byte) : (s.emit bs).topReturn = s.topReturn := rfl
@[simp] theorem State.emit_irqNow (bs : List Byte) : (s.emit bs).irqNow = s.irqNow := rfl

/-! ### supplyLine -/

@[simp] theorem State.supplyLine_x (text : Line) : (s.supplyLine text).x = s.x := rfl
@[simp] theorem State.supplyLine_idx (text : Line) : (s.supplyLine text).idx = s.idx := rfl
@[simp] theorem State.supplyLine_sel (text : Line) : (s.supplyLine text).sel = s.sel := rfl
@[simp] theorem State.supplyLine_pc (text : Line) : (s.supplyLine text).pc = s.pc := rfl
@[simp] theorem State.supplyLine_stk (text : Line) : (s.supplyLine text).stk = s.stk := rfl
@[simp] theorem State.supplyLine_mem (text : Line) : (s.supplyLine text).mem = s.mem := rfl
@[simp] theorem State.supplyLine_halted (text : Line) : (s.supplyLine text).halted = s.halted := rfl
@[simp] theorem State.supplyLine_exitCode (text : Line) : (s.supplyLine text).exitCode = s.exitCode := rfl
@[simp] theorem State.supplyLine_haltCause (text : Line) : (s.supplyLine text).haltCause = s.haltCause := rfl
@[simp] theorem State.supplyLine_faultAddr (text : Line) : (s.supplyLine text).faultAddr = s.faultAddr := rfl
@[simp] theorem State.supplyLine_faultWord (text : Line) : (s.supplyLine text).faultWord = s.faultWord := rfl
@[simp] theorem State.supplyLine_out (text : Line) : (s.supplyLine text).out = s.out := rfl
@[simp] theorem State.supplyLine_inLines (text : Line) : (s.supplyLine text).inLines = s.inLines ++ [text] := rfl
@[simp] theorem State.supplyLine_inEnded (text : Line) : (s.supplyLine text).inEnded = s.inEnded := rfl
@[simp] theorem State.supplyLine_irq (text : Line) : (s.supplyLine text).irq = s.irq := rfl
@[simp] theorem State.supplyLine_cfg (text : Line) : (s.supplyLine text).cfg = s.cfg := rfl
@[simp] theorem State.supplyLine_reg (text : Line) (q : RegId) : (s.supplyLine text).reg q = s.reg q := rfl
@[simp] theorem State.supplyLine_slot (text : Line) (j : SlotId) : (s.supplyLine text).slot j = s.slot j := rfl
@[simp] theorem State.supplyLine_cur (text : Line) : (s.supplyLine text).cur = s.cur := rfl
@[simp] theorem State.supplyLine_sp (text : Line) : (s.supplyLine text).sp = s.sp := rfl
@[simp] theorem State.supplyLine_topReturn (text : Line) : (s.supplyLine text).topReturn = s.topReturn := rfl
@[simp] theorem State.supplyLine_irqNow (text : Line) : (s.supplyLine text).irqNow = s.irqNow := rfl

/-! ### haltWith -/

@[simp] theorem State.haltWith_x (c : HaltCause) (code : BitVec 16) : (s.haltWith c code).x = s.x := rfl
@[simp] theorem State.haltWith_idx (c : HaltCause) (code : BitVec 16) : (s.haltWith c code).idx = s.idx := rfl
@[simp] theorem State.haltWith_sel (c : HaltCause) (code : BitVec 16) : (s.haltWith c code).sel = s.sel := rfl
@[simp] theorem State.haltWith_pc (c : HaltCause) (code : BitVec 16) : (s.haltWith c code).pc = s.pc := rfl
@[simp] theorem State.haltWith_stk (c : HaltCause) (code : BitVec 16) : (s.haltWith c code).stk = s.stk := rfl
@[simp] theorem State.haltWith_mem (c : HaltCause) (code : BitVec 16) : (s.haltWith c code).mem = s.mem := rfl
@[simp] theorem State.haltWith_halted (c : HaltCause) (code : BitVec 16) : (s.haltWith c code).halted = true := rfl
@[simp] theorem State.haltWith_exitCode (c : HaltCause) (code : BitVec 16) : (s.haltWith c code).exitCode = code := rfl
@[simp] theorem State.haltWith_haltCause (c : HaltCause) (code : BitVec 16) : (s.haltWith c code).haltCause = c := rfl
@[simp] theorem State.haltWith_faultAddr (c : HaltCause) (code : BitVec 16) : (s.haltWith c code).faultAddr = s.faultAddr := rfl
@[simp] theorem State.haltWith_faultWord (c : HaltCause) (code : BitVec 16) : (s.haltWith c code).faultWord = s.faultWord := rfl
@[simp] theorem State.haltWith_out (c : HaltCause) (code : BitVec 16) : (s.haltWith c code).out = s.out := rfl
@[simp] theorem State.haltWith_inLines (c : HaltCause) (code : BitVec 16) : (s.haltWith c code).inLines = s.inLines := rfl
@[simp] theorem State.haltWith_inEnded (c : HaltCause) (code : BitVec 16) : (s.haltWith c code).inEnded = s.inEnded := rfl
@[simp] theorem State.haltWith_irq (c : HaltCause) (code : BitVec 16) : (s.haltWith c code).irq = s.irq := rfl
@[simp] theorem State.haltWith_cfg (c : HaltCause) (code : BitVec 16) : (s.haltWith c code).cfg = s.cfg := rfl
@[simp] theorem State.haltWith_reg (c : HaltCause) (code : BitVec 16) (q : RegId) : (s.haltWith c code).reg q = s.reg q := rfl
@[simp] theorem State.haltWith_slot (c : HaltCause) (code : BitVec 16) (j : SlotId) : (s.haltWith c code).slot j = s.slot j := rfl
@[simp] theorem State.haltWith_cur (c : HaltCause) (code : BitVec 16) : (s.haltWith c code).cur = s.cur := rfl
@[simp] theorem State.haltWith_sp (c : HaltCause) (code : BitVec 16) : (s.haltWith c code).sp = s.sp := rfl
@[simp] theorem State.haltWith_topReturn (c : HaltCause) (code : BitVec 16) : (s.haltWith c code).topReturn = s.topReturn := rfl
@[simp] theorem State.haltWith_irqNow (c : HaltCause) (code : BitVec 16) : (s.haltWith c code).irqNow = s.irqNow := rfl

/-! ### raise -/

@[simp] theorem State.raise_x (e : ErrorKind) : (s.raise e).x = s.x := rfl
@[simp] theorem State.raise_idx (e : ErrorKind) : (s.raise e).idx = s.idx := rfl
@[simp] theorem State.raise_sel (e : ErrorKind) : (s.raise e).sel = s.sel := rfl
@[simp] theorem State.raise_pc (e : ErrorKind) : (s.raise e).pc = s.pc := rfl
@[simp] theorem State.raise_stk (e : ErrorKind) : (s.raise e).stk = s.stk := rfl
@[simp] theorem State.raise_mem (e : ErrorKind) : (s.raise e).mem = s.mem := rfl
@[simp] theorem State.raise_halted (e : ErrorKind) : (s.raise e).halted = true := rfl
@[simp] theorem State.raise_exitCode (e : ErrorKind) : (s.raise e).exitCode = statusOf e.cause := rfl
@[simp] theorem State.raise_haltCause (e : ErrorKind) : (s.raise e).haltCause = e.cause := rfl
@[simp] theorem State.raise_faultAddr (e : ErrorKind) : (s.raise e).faultAddr = s.pc - 3 := rfl
@[simp] theorem State.raise_faultWord (e : ErrorKind) : (s.raise e).faultWord = s.mem.readWord (s.pc - 3).toNat := rfl
@[simp] theorem State.raise_out (e : ErrorKind) : (s.raise e).out = s.out := rfl
@[simp] theorem State.raise_inLines (e : ErrorKind) : (s.raise e).inLines = s.inLines := rfl
@[simp] theorem State.raise_inEnded (e : ErrorKind) : (s.raise e).inEnded = s.inEnded := rfl
@[simp] theorem State.raise_irq (e : ErrorKind) : (s.raise e).irq = s.irq := rfl
@[simp] theorem State.raise_cfg (e : ErrorKind) : (s.raise e).cfg = s.cfg := rfl
@[simp] theorem State.raise_reg (e : ErrorKind) (q : RegId) : (s.raise e).reg q = s.reg q := rfl
@[simp] theorem State.raise_slot (e : ErrorKind) (j : SlotId) : (s.raise e).slot j = s.slot j := rfl
@[simp] theorem State.raise_cur (e : ErrorKind) : (s.raise e).cur = s.cur := rfl
@[simp] theorem State.raise_sp (e : ErrorKind) : (s.raise e).sp = s.sp := rfl
@[simp] theorem State.raise_topReturn (e : ErrorKind) : (s.raise e).topReturn = s.topReturn := rfl
@[simp] theorem State.raise_irqNow (e : ErrorKind) : (s.raise e).irqNow = s.irqNow := rfl

/-! ### passBoundary -/

@[simp] theorem State.passBoundary_x : (s.passBoundary).x = s.x := rfl
@[simp] theorem State.passBoundary_idx : (s.passBoundary).idx = s.idx := rfl
@[simp] theorem State.passBoundary_sel : (s.passBoundary).sel = s.sel := rfl
@[simp] theorem State.passBoundary_pc : (s.passBoundary).pc = s.pc := rfl
@[simp] theorem State.passBoundary_stk : (s.passBoundary).stk = s.stk := rfl
@[simp] theorem State.passBoundary_mem : (s.passBoundary).mem = s.mem := rfl
@[simp] theorem State.passBoundary_halted : (s.passBoundary).halted = s.halted := rfl
@[simp] theorem State.passBoundary_exitCode : (s.passBoundary).exitCode = s.exitCode := rfl
@[simp] theorem State.passBoundary_haltCause : (s.passBoundary).haltCause = s.haltCause := rfl
@[simp] theorem State.passBoundary_faultAddr : (s.passBoundary).faultAddr = s.faultAddr := rfl
@[simp] theorem State.passBoundary_faultWord : (s.passBoundary).faultWord = s.faultWord := rfl
@[simp] theorem State.passBoundary_out : (s.passBoundary).out = s.out := rfl
@[simp] theorem State.passBoundary_inLines : (s.passBoundary).inLines = s.inLines := rfl
@[simp] theorem State.passBoundary_inEnded : (s.passBoundary).inEnded = s.inEnded := rfl
@[simp] theorem State.passBoundary_irq : (s.passBoundary).irq = s.irq.tail := rfl
@[simp] theorem State.passBoundary_cfg : (s.passBoundary).cfg = s.cfg := rfl
@[simp] theorem State.passBoundary_reg (q : RegId) : (s.passBoundary).reg q = s.reg q := rfl
@[simp] theorem State.passBoundary_slot (j : SlotId) : (s.passBoundary).slot j = s.slot j := rfl
@[simp] theorem State.passBoundary_cur : (s.passBoundary).cur = s.cur := rfl
@[simp] theorem State.passBoundary_sp : (s.passBoundary).sp = s.sp := rfl
@[simp] theorem State.passBoundary_topReturn : (s.passBoundary).topReturn = s.topReturn := rfl

/-! ### atDispatch -/

@[simp] theorem State.atDispatch_x : (s.atDispatch).x = s.x := rfl
@[simp] theorem State.atDispatch_idx : (s.atDispatch).idx = s.idx := rfl
@[simp] theorem State.atDispatch_sel : (s.atDispatch).sel = s.sel := rfl
@[simp] theorem State.atDispatch_pc : (s.atDispatch).pc = s.pc + 3 := rfl
@[simp] theorem State.atDispatch_stk : (s.atDispatch).stk = s.stk := rfl
@[simp] theorem State.atDispatch_mem : (s.atDispatch).mem = s.mem := rfl
@[simp] theorem State.atDispatch_halted : (s.atDispatch).halted = s.halted := rfl
@[simp] theorem State.atDispatch_exitCode : (s.atDispatch).exitCode = s.exitCode := rfl
@[simp] theorem State.atDispatch_haltCause : (s.atDispatch).haltCause = s.haltCause := rfl
@[simp] theorem State.atDispatch_faultAddr : (s.atDispatch).faultAddr = s.faultAddr := rfl
@[simp] theorem State.atDispatch_faultWord : (s.atDispatch).faultWord = s.faultWord := rfl
@[simp] theorem State.atDispatch_out : (s.atDispatch).out = s.out := rfl
@[simp] theorem State.atDispatch_inLines : (s.atDispatch).inLines = s.inLines := rfl
@[simp] theorem State.atDispatch_inEnded : (s.atDispatch).inEnded = s.inEnded := rfl
@[simp] theorem State.atDispatch_irq : (s.atDispatch).irq = s.irq.tail := rfl
@[simp] theorem State.atDispatch_cfg : (s.atDispatch).cfg = s.cfg := rfl
@[simp] theorem State.atDispatch_reg (q : RegId) : (s.atDispatch).reg q = s.reg q := rfl
@[simp] theorem State.atDispatch_slot (j : SlotId) : (s.atDispatch).slot j = s.slot j := rfl
@[simp] theorem State.atDispatch_cur : (s.atDispatch).cur = s.cur := rfl
@[simp] theorem State.atDispatch_sp : (s.atDispatch).sp = s.sp := rfl
@[simp] theorem State.atDispatch_topReturn : (s.atDispatch).topReturn = s.topReturn := rfl

end Sys2Proof.Machine
end

