-- ==== Sys2Proof/Laws/Ops.lean ====
section
/-! SUPPORT. One specification lemma per shared operation: what it returns, and all it can do. -/

namespace Sys2Proof.Machine

variable (s : State)

/-! ### Registers and the index bank -/

@[simp] theorem State.setReg_reg (r q : RegId) (v : Word) :
    (s.setReg r v).reg q = if q = r then v else s.reg q := by
  simp only [State.reg, State.setReg, Fin.getElem_fin, Vector.getElem_set, Fin.ext_iff, eq_comm]

@[simp] theorem State.setRegsUpTo_reg (last q : RegId) (f : RegId → Word) :
    (s.setRegsUpTo last f).reg q = if q ≤ last then f q else s.reg q := by
  simp only [State.setRegsUpTo, State.reg, Fin.getElem_fin, Vector.getElem_ofFn, Fin.eta]

@[simp] theorem State.setCur_slot (v : Addr) (j : SlotId) :
    (s.setCur v).slot j = if j = s.sel then v else s.slot j := by
  simp only [State.slot, State.setCur, Fin.getElem_fin, Vector.getElem_set, Fin.ext_iff, eq_comm]

@[simp] theorem State.setCur_cur (v : Addr) : (s.setCur v).cur = v := by
  simp [State.cur]

@[simp] theorem State.setSel_cur (k : SlotId) : (s.setSel k).cur = s.slot k := rfl

/-- Writing the selected slot twice is the second write. -/
@[simp] theorem State.setCur_setCur (v w : Addr) : (s.setCur v).setCur w = s.setCur w := by
  simp [State.setCur]

/-- Writing back what the selected slot holds changes nothing. -/
@[simp] theorem State.setCur_self : s.setCur s.cur = s := by
  simp [State.setCur, State.cur, State.slot]

/-! ### The call stack -/

@[simp] theorem State.pushReturn_sp (a : PcWord) : (s.pushReturn a).sp = s.sp + 1 := by
  simp [State.sp]

@[simp] theorem State.pushReturn_topReturn (a : PcWord) :
    (s.pushReturn a).topReturn = some a := by
  simp [State.topReturn]

@[simp] theorem State.dropReturn_sp : s.dropReturn.sp = s.sp - 1 := by
  simp [State.sp]

theorem State.topReturn_eq_none : s.topReturn = none ↔ s.sp = 0 := by
  simp [State.topReturn, State.sp]

theorem State.stk_of_topReturn {p : PcWord} (h : s.topReturn = some p) :
    s.stk = s.stk.dropLast ++ [p] := by
  obtain ⟨ys, hys⟩ := List.getLast?_eq_some_iff.mp h
  rw [hys]; simp

/-! ### The input stream -/

theorem State.takeLine_cons {text : Line} {rest : List Line} (h : s.inLines = text :: rest) :
    s.takeLine = some (text, { s with inLines := rest }) := by
  simp [State.takeLine, h]

theorem State.takeLine_ended (h : s.inLines = []) (he : s.inEnded = true) :
    s.takeLine = some ([], s) := by
  simp [State.takeLine, h, he]

/-- `In()` blocks exactly when no line is available and the stream has not ended. -/
theorem State.takeLine_eq_none : s.takeLine = none ↔ s.inLines = [] ∧ s.inEnded = false := by
  unfold State.takeLine
  split <;> simp_all

/-- All that `In()` changes is the list of available lines, from the front. -/
theorem State.takeLine_some {text : Line} {t : State} (h : s.takeLine = some (text, t)) :
    ∃ lines, lines <:+ s.inLines ∧ t = { s with inLines := lines } := by
  unfold State.takeLine at h
  split at h
  · next heq =>
    obtain ⟨rfl, rfl⟩ := Prod.mk.injEq .. ▸ Option.some.inj h
    exact ⟨_, heq ▸ List.suffix_cons _ _, rfl⟩
  · split at h
    · obtain ⟨rfl, rfl⟩ := Prod.mk.injEq .. ▸ Option.some.inj h
      exact ⟨s.inLines, List.suffix_rfl, rfl⟩
    · cases h

/-! ### Addresses and width conversion -/

theorem State.elemAddr_eq (i : Fin 16) : s.elemAddr i = (s.cur.toNat + i.val) % 65536 := by
  simp [State.elemAddr, BitVec.toNat_add]

theorem State.elemAddr_lt (i : Fin 16) : s.elemAddr i < 65536 := (s.cur + _).isLt

/-- The element addresses of one instruction are distinct (20_memory.md R66). -/
theorem State.elemAddr_inj {i j : Fin 16} (h : s.elemAddr i = s.elemAddr j) : i = j := by
  rw [State.elemAddr_eq, State.elemAddr_eq] at h
  have := i.isLt
  have := j.isLt
  exact Fin.ext (by omega)

theorem mem_regsUpTo {last r : RegId} : r ∈ regsUpTo last ↔ r ≤ last := by
  simp [regsUpTo]

theorem regsUpTo_nodup (last : RegId) : (regsUpTo last).Nodup :=
  (List.nodup_finRange 16).filter _

@[simp] theorem byteToWord_toNat (b : Byte) : (byteToWord b).toNat = b.toNat := by
  have := b.isLt
  simp only [byteToWord, BitVec.toNat_setWidth]
  omega

@[simp] theorem wordToByte_toNat (v : Word) : (wordToByte v).toNat = v.toNat % 256 := by
  simp [wordToByte]

@[simp] theorem addrToPc_toNat (a : Addr) : (addrToPc a).toNat = a.toNat := by
  have := a.isLt
  simp only [addrToPc, BitVec.toNat_setWidth]
  omega

/-! ### Arithmetic -/

theorem aluAdd_toNat (p q : Word) : (aluAdd p q).toNat = (p.toNat + q.toNat) % 4096 := by
  simp [aluAdd, BitVec.toNat_add]

theorem aluSub_toNat (p q : Word) :
    ((aluSub p q).toNat : Int) = ((p.toNat : Int) - q.toNat) % 4096 := by
  have := p.isLt
  have := q.isLt
  simp only [aluSub, BitVec.toNat_sub]
  omega

theorem aluMul_toNat (p q : Word) : (aluMul p q).toNat = p.toNat * q.toNat % 4096 := by
  simp [aluMul, BitVec.toNat_mul]

theorem aluDiv_zero (p : Word) : aluDiv p 0 = none := rfl

theorem aluDiv_of_ne_zero (p : Word) {q : Word} (h : q ≠ 0) : aluDiv p q = some (p / q) := by
  simp only [aluDiv, if_neg h]

theorem copyMasked_twelve (v : Word) : copyMasked .twelve v = v := by
  apply BitVec.eq_of_toNat_eq
  simp only [copyMasked, CopyMask.bits, BitVec.toNat_and, BitVec.toNat_ofNat]
  rw [Nat.mod_eq_of_lt (by decide), Nat.and_two_pow_sub_one_eq_mod, Nat.mod_eq_of_lt v.isLt]

theorem copyMasked_eight (v : Word) : (copyMasked .eight v).toNat = v.toNat % 256 := by
  simp only [copyMasked, CopyMask.bits, BitVec.toNat_and, BitVec.toNat_ofNat]
  rw [Nat.mod_eq_of_lt (by decide), Nat.and_two_pow_sub_one_eq_mod]

/-! ### Control -/

theorem State.skipIf_pc (c : Bool) : (s.skipIf c).pc = if c = true then s.pc + 3 else s.pc := by
  unfold State.skipIf; split <;> rfl

/-- A skip changes nothing but `pc`. -/
theorem State.skipIf_eq (c : Bool) : s.skipIf c = s.setPc (s.skipIf c).pc := by
  unfold State.skipIf; split <;> rfl

/-- A division either raises RuntimeError for a zero divisor or writes the quotient. -/
theorem State.divideInto_zero (r : RegId) : s.divideInto r 0 = s.raise .runtime := rfl

theorem State.divideInto_of_ne_zero (r : RegId) {q : Word} (h : q ≠ 0) :
    s.divideInto r q = s.setReg r (s.reg r / q) := by
  simp only [State.divideInto, aluDiv_of_ne_zero _ h]

/-- Distinct causes have distinct numbers (10_state.md R34). -/
theorem HaltCause.code_inj {c d : HaltCause} (h : c.code = d.code) : c = d := by
  cases c <;> cases d <;> first | rfl | exact absurd h (by decide)

end Sys2Proof.Machine
end

