-- ==== Sys2Proof/Laws/PerInstr.lean ====
section
/-! SUPPORT. The family EncodingFitsRow: what is proved of each instruction as syntax, one lemma per
constructor. -/

namespace Sys2Proof.Laws.EncodingFitsRow

/-- Every operand fits its field (30_encoding.md R93); the word selects the instruction's own row of
30_encoding.md R91; its ignored bits are 0 (R89). -/
def Statement (i : Instr) : Prop :=
  i.wellFormed = true ∧ encode i &&& i.row.mask = i.row.pattern ∧ encode i &&& i.row.ignored = 0

theorem fits_reg (x : RegId) : (Operand.reg x.val).fits = true :=
  decide_eq_true (Nat.le_of_lt_succ x.isLt)

theorem fits_imm4 (k : SlotId) : (Operand.imm4 k.val).fits = true :=
  decide_eq_true (Nat.le_of_lt_succ k.isLt)

theorem fits_imm8 (b : BitVec 8) : (Operand.imm8 b.toNat).fits = true :=
  decide_eq_true (Nat.le_of_lt_succ b.isLt)

theorem fits_imm12 (n : BitVec 12) : (Operand.imm12 n.toNat).fits = true :=
  decide_eq_true (Nat.le_of_lt_succ n.isLt)

theorem fits_imm16 (m : BitVec 16) : (Operand.imm16 m.toNat).fits = true :=
  decide_eq_true (Nat.le_of_lt_succ m.isLt)

theorem wf_of_operands {i : Instr} (h : ∀ o ∈ i.operands, o.fits = true) : i.wellFormed = true :=
  List.all_eq_true.mpr h

/-- The operands of the shapes the instructions have. -/
theorem wf_m {i : Instr} (m : BitVec 16) (h : i.operands = [.imm16 m.toNat]) :
    i.wellFormed = true :=
  wf_of_operands (by rw [h]; simp [fits_imm16])

theorem wf_x {i : Instr} (x : RegId) (h : i.operands = [.reg x.val]) : i.wellFormed = true :=
  wf_of_operands (by rw [h]; simp [fits_reg])

theorem wf_xn {i : Instr} (x : RegId) (n : BitVec 12)
    (h : i.operands = [.reg x.val, .imm12 n.toNat]) : i.wellFormed = true :=
  wf_of_operands (by rw [h]; simp [fits_reg, fits_imm12])

theorem wf_xy {i : Instr} (x y : RegId) (h : i.operands = [.reg x.val, .reg y.val]) :
    i.wellFormed = true :=
  wf_of_operands (by rw [h]; simp [fits_reg])

theorem halt (m : BitVec 16) : Statement (.halt m) :=
  ⟨wf_m m rfl, formatM_and_opcode _ m, BitVec.and_zero⟩

theorem seti (m : BitVec 16) : Statement (.seti m) :=
  ⟨wf_m m rfl, formatM_and_opcode _ m, BitVec.and_zero⟩

theorem jump (m : BitVec 16) : Statement (.jump m) :=
  ⟨wf_m m rfl, formatM_and_opcode _ m, BitVec.and_zero⟩

theorem addx (m : BitVec 16) : Statement (.addx m) :=
  ⟨wf_m m rfl, formatM_and_opcode _ m, BitVec.and_zero⟩

theorem subx (m : BitVec 16) : Statement (.subx m) :=
  ⟨wf_m m rfl, formatM_and_opcode _ m, BitVec.and_zero⟩

theorem call (m : BitVec 16) : Statement (.call m) :=
  ⟨wf_m m rfl, formatM_and_opcode _ m, BitVec.and_zero⟩

theorem loadi (x : RegId) (n : BitVec 12) : Statement (.loadi x n) :=
  ⟨wf_xn x n rfl, formatXN_and_opcode _ _ n, BitVec.and_zero⟩

theorem skei (x : RegId) (n : BitVec 12) : Statement (.skei x n) :=
  ⟨wf_xn x n rfl, formatXN_and_opcode _ _ n, BitVec.and_zero⟩

theorem skni (x : RegId) (n : BitVec 12) : Statement (.skni x n) :=
  ⟨wf_xn x n rfl, formatXN_and_opcode _ _ n, BitVec.and_zero⟩

theorem addi (x : RegId) (n : BitVec 12) : Statement (.addi x n) :=
  ⟨wf_xn x n rfl, formatXN_and_opcode _ _ n, BitVec.and_zero⟩

theorem subi (x : RegId) (n : BitVec 12) : Statement (.subi x n) :=
  ⟨wf_xn x n rfl, formatXN_and_opcode _ _ n, BitVec.and_zero⟩

theorem muli (x : RegId) (n : BitVec 12) : Statement (.muli x n) :=
  ⟨wf_xn x n rfl, formatXN_and_opcode _ _ n, BitVec.and_zero⟩

theorem divi (x : RegId) (n : BitVec 12) : Statement (.divi x n) :=
  ⟨wf_xn x n rfl, formatXN_and_opcode _ _ n, BitVec.and_zero⟩

theorem ldm (x : RegId) : Statement (.ldm x) :=
  ⟨wf_x x rfl, formatXK_and_opcode_k _ _ _, formatXK_and_ignored _ _ _⟩

theorem stm (x : RegId) : Statement (.stm x) :=
  ⟨wf_x x rfl, formatXK_and_opcode_k _ _ _, formatXK_and_ignored _ _ _⟩

theorem ldb (x : RegId) : Statement (.ldb x) :=
  ⟨wf_x x rfl, formatXK_and_opcode_k _ _ _, formatXK_and_ignored _ _ _⟩

theorem stb (x : RegId) : Statement (.stb x) :=
  ⟨wf_x x rfl, formatXK_and_opcode_k _ _ _, formatXK_and_ignored _ _ _⟩

theorem sker (x y : RegId) : Statement (.sker x y) :=
  ⟨wf_xy x y rfl, formatXYK_and_opcode_k _ _ _ _, formatXYK_and_ignored _ _ _ _⟩

theorem sknr (x y : RegId) : Statement (.sknr x y) :=
  ⟨wf_xy x y rfl, formatXYK_and_opcode_k _ _ _ _, formatXYK_and_ignored _ _ _ _⟩

theorem addr (x y : RegId) : Statement (.addr x y) :=
  ⟨wf_xy x y rfl, formatXYK_and_opcode_k _ _ _ _, formatXYK_and_ignored _ _ _ _⟩

theorem subr (x y : RegId) : Statement (.subr x y) :=
  ⟨wf_xy x y rfl, formatXYK_and_opcode_k _ _ _ _, formatXYK_and_ignored _ _ _ _⟩

theorem mulr (x y : RegId) : Statement (.mulr x y) :=
  ⟨wf_xy x y rfl, formatXYK_and_opcode_k _ _ _ _, formatXYK_and_ignored _ _ _ _⟩

theorem divr (x y : RegId) : Statement (.divr x y) :=
  ⟨wf_xy x y rfl, formatXYK_and_opcode_k _ _ _ _, formatXYK_and_ignored _ _ _ _⟩

theorem copy (x y : RegId) : Statement (.copy x y) :=
  ⟨wf_xy x y rfl, formatXYK_and_opcode_k _ _ _ _, formatXYK_and_ignored _ _ _ _⟩

theorem prtz : Statement (.prtz) :=
  ⟨by decide, by decide, by decide⟩

theorem prtd : Statement (.prtd) :=
  ⟨by decide, by decide, by decide⟩

theorem inln : Statement (.inln) :=
  ⟨by decide, by decide, by decide⟩

theorem ret : Statement (.ret) :=
  ⟨by decide, by decide, by decide⟩

theorem prtn (n : BitVec 12) : Statement (.prtn n) :=
  ⟨wf_of_operands (by simp [Instr.operands, fits_imm12]), formatXN_and_opcode_x _ _ n,
    BitVec.and_zero⟩

theorem putc (b : BitVec 8) : Statement (.putc b) := by
  refine ⟨wf_of_operands (by simp [Instr.operands, fits_imm8]), formatXN_and_opcode_x _ _ _, ?_⟩
  change (5#8 ++ 2#4 ++ b.setWidth 12) &&& (0#8 ++ 0#4 ++ 0xF00#12) = 0#8 ++ 0#4 ++ 0#12
  rw [BitVec.and_append]
  congr 1
  apply BitVec.eq_of_getLsbD_eq
  intro i hi
  simp only [BitVec.getLsbD_and, BitVec.getLsbD_setWidth]
  interval_cases i <;> simp [BitVec.getLsbD_of_ge]

theorem selx (k : SlotId) : Statement (.selx k) :=
  ⟨wf_of_operands (by simp [Instr.operands, fits_imm4]), formatK_and_opcode _ _,
    formatK_and_ignored _ _⟩

end Sys2Proof.Laws.EncodingFitsRow
end

