-- ==== Sys2Proof/Laws/Step.lean ====
section
/-! SUPPORT. What an instruction can do, said once, and what a step can do, said once. -/

namespace Sys2Proof.Machine

/-! ### Instructions -/

/-- INLN is held, or stores a clipped line and takes it from the available lines. -/
theorem execInln_cases (s : State) :
    (execInln s = .fault .heldOnInput ∧ s.NoLine) ∨
    ∃ (text : Line) (lines : List Line), lines <:+ s.inLines ∧
      execInln s = .next ({ s with inLines := lines }.setMem
        (s.mem.writeCells (cellsFrom s.cur.toNat (text.take s.room)))) := by
  unfold execInln
  split
  · next h => exact .inl ⟨rfl, s.takeLine_eq_none.mp h⟩
  · next text t h =>
    obtain ⟨lines, hl, rfl⟩ := s.takeLine_some h
    exact .inr ⟨text, lines, hl, rfl⟩

/-- INLN with a line available. -/
theorem execInln_of_line {s : State} {text : Line} {rest : List Line} (h : s.inLines = text :: rest) :
    execInln s = .next ({ s with inLines := rest }.setMem
      (s.mem.writeCells (cellsFrom s.cur.toNat (text.take s.room)))) := by
  simp only [execInln, s.takeLine_cons h]; rfl

/-- INLN at end of input: an empty line is stored, so nothing changes. -/
theorem execInln_of_end {s : State} (h : s.inLines = []) (he : s.inEnded = true) :
    execInln s = .next s := by
  simp only [execInln, s.takeLine_ended h he, List.take_nil, cellsFrom, Memory.writeCells_nil,
    State.setMem]

/-- CALL with room on the call stack. -/
theorem execCall_of_room (m : BitVec 16) {s : State} (h : s.sp < s.cfg.stackCapacity) :
    execCall m s = .next ((s.pushReturn s.pc).setPc (addrToPc m)) := if_pos h

/-- CALL with a full call stack. -/
theorem execCall_of_full (m : BitVec 16) {s : State} (h : ¬ s.sp < s.cfg.stackCapacity) :
    execCall m s = .next (s.raise .overflow) := if_neg h

/-- CALL pushes and jumps, or raises StackOverflow. -/
theorem execCall_cases (m : BitVec 16) (s : State) :
    (s.sp < s.cfg.stackCapacity ∧
      execCall m s = .next ((s.pushReturn s.pc).setPc (addrToPc m))) ∨
    (s.cfg.stackCapacity ≤ s.sp ∧ execCall m s = .next (s.raise .overflow)) := by
  unfold execCall
  split
  · next h => exact .inl ⟨h, rfl⟩
  · next h => exact .inr ⟨Nat.le_of_not_lt h, rfl⟩

/-- RET pops and jumps, or raises StackUnderflow. -/
theorem execRet_cases (s : State) :
    (∃ p, s.stk = s.stk.dropLast ++ [p] ∧ execRet s = .next (s.dropReturn.setPc p)) ∨
    (s.sp = 0 ∧ execRet s = .next (s.raise .underflow)) := by
  unfold execRet
  split
  · next h => exact .inr ⟨s.topReturn_eq_none.mp h, rfl⟩
  · next p h => exact .inl ⟨p, s.stk_of_topReturn h, rfl⟩

/-- Division writes the quotient, or raises RuntimeError. -/
theorem State.divideInto_cases (s : State) (r : RegId) (q : Word) :
    (q ≠ 0 ∧ s.divideInto r q = s.setReg r (s.reg r / q)) ∨
    (q = 0 ∧ s.divideInto r q = s.raise .runtime) := by
  by_cases h : q = 0
  · subst h; exact .inr ⟨rfl, rfl⟩
  · exact .inl ⟨h, s.divideInto_of_ne_zero r h⟩

/-- Whatever the instruction, the next state is `s` under one of the named updates. -/
theorem exec_next_cases {i : Instr} {s t : State} (h : exec i s = .next t) :
    (∃ m, i = .halt m ∧ t = s.haltWith .haltInstr m) ∨
    (∃ e, e ≠ .decode ∧ t = s.raise e) ∨
    (∃ p, t = s.setPc p ∧ p.toNat < 65536) ∨
    (∃ c, t = s.skipIf c) ∨
    (s.sp < s.cfg.stackCapacity ∧ ∃ m, t = (s.pushReturn s.pc).setPc (addrToPc m)) ∨
    (∃ p, s.stk = s.stk.dropLast ++ [p] ∧ t = s.dropReturn.setPc p) ∨
    (∃ r v, t = s.setReg r v) ∨ (∃ r f, t = s.setRegsUpTo r f) ∨
    (∃ v, t = s.setCur v) ∨ (∃ k, t = s.setSel k) ∨ (∃ bs, t = s.emit bs) ∨
    (∃ cells lines, (∀ c ∈ cells, c.1 < 65536) ∧ lines <:+ s.inLines ∧
      t = { s with inLines := lines }.setMem (s.mem.writeCells cells)) := by
  have hdiv : ∀ r q, t = s.divideInto r q →
      (∃ e, e ≠ ErrorKind.decode ∧ t = s.raise e) ∨ ∃ r v, t = s.setReg r v := by
    intro r q ht
    rcases s.divideInto_cases r q with ⟨-, e⟩ | ⟨-, e⟩
    · exact .inr ⟨_, _, ht.trans e⟩
    · exact .inl ⟨.runtime, by simp, ht.trans e⟩
  have hst : ∀ lines cells, (∀ c ∈ cells, c.1 < 65536) → lines <:+ s.inLines →
      t = { s with inLines := lines }.setMem (s.mem.writeCells cells) →
      ∃ cells lines, (∀ c ∈ cells, c.1 < 65536) ∧ lines <:+ s.inLines ∧
        t = { s with inLines := lines }.setMem (s.mem.writeCells cells) :=
    fun lines cells h1 h2 h3 => ⟨cells, lines, h1, h2, h3⟩
  cases i with
  | halt m => cases h; exact .inl ⟨m, rfl, rfl⟩
  | jump m =>
    cases h
    exact .inr (.inr (.inl ⟨_, rfl, by rw [addrToPc_toNat]; exact m.isLt⟩))
  | skei x n => cases h; exact .inr (.inr (.inr (.inl ⟨_, rfl⟩)))
  | skni x n => cases h; exact .inr (.inr (.inr (.inl ⟨_, rfl⟩)))
  | sker x y => cases h; exact .inr (.inr (.inr (.inl ⟨_, rfl⟩)))
  | sknr x y => cases h; exact .inr (.inr (.inr (.inl ⟨_, rfl⟩)))
  | call m =>
    rcases execCall_cases m s with ⟨hlt, e⟩ | ⟨-, e⟩
    · cases h.symm.trans e; exact .inr (.inr (.inr (.inr (.inl ⟨hlt, m, rfl⟩))))
    · cases h.symm.trans e; exact .inr (.inl ⟨.overflow, by simp, rfl⟩)
  | ret =>
    rcases execRet_cases s with ⟨p, hs, e⟩ | ⟨-, e⟩
    · cases h.symm.trans e; exact .inr (.inr (.inr (.inr (.inr (.inl ⟨p, hs, rfl⟩)))))
    · cases h.symm.trans e; exact .inr (.inl ⟨.underflow, by simp, rfl⟩)
  | divi x n =>
    rcases hdiv x n (by cases h; rfl) with h | h
    · exact .inr (.inl h)
    · simp only [h, true_or, or_true]
  | divr x y =>
    rcases hdiv x (s.reg y) (by cases h; rfl) with h | h
    · exact .inr (.inl h)
    · simp only [h, true_or, or_true]
  | loadi x n => cases h; simp only [exists_apply_eq_apply2', true_or, or_true]
  | ldb x => cases h; simp only [exists_apply_eq_apply2', true_or, or_true]
  | addi x n => cases h; simp only [exists_apply_eq_apply2', true_or, or_true]
  | subi x n => cases h; simp only [exists_apply_eq_apply2', true_or, or_true]
  | muli x n => cases h; simp only [exists_apply_eq_apply2', true_or, or_true]
  | addr x y => cases h; simp only [exists_apply_eq_apply2', true_or, or_true]
  | subr x y => cases h; simp only [exists_apply_eq_apply2', true_or, or_true]
  | mulr x y => cases h; simp only [exists_apply_eq_apply2', true_or, or_true]
  | copy x y => cases h; simp only [exists_apply_eq_apply2', true_or, or_true]
  | ldm x => cases h; simp only [exists_apply_eq_apply2', true_or, or_true]
  | seti m => cases h; simp only [exists_apply_eq_apply', true_or, or_true]
  | addx m => cases h; simp only [exists_apply_eq_apply', true_or, or_true]
  | subx m => cases h; simp only [exists_apply_eq_apply', true_or, or_true]
  | selx k => cases h; simp only [exists_apply_eq_apply', true_or, or_true]
  | prtz => cases h; simp only [exists_apply_eq_apply', true_or, or_true]
  | prtn n => cases h; simp only [exists_apply_eq_apply', true_or, or_true]
  | putc b => cases h; simp only [exists_apply_eq_apply', true_or, or_true]
  | prtd => cases h; simp only [exists_apply_eq_apply', true_or, or_true]
  | stm x =>
    cases h
    simp only [hst s.inLines _ (by
      intro c hc
      obtain ⟨r, -, rfl⟩ := List.mem_map.mp hc
      exact s.elemAddr_lt r) List.suffix_rfl rfl, or_true]
  | stb x =>
    cases h
    simp only [hst s.inLines [(s.cur.toNat, wordToByte (s.reg x))] (by
      intro c hc
      rw [List.mem_singleton.mp hc]
      exact s.cur.isLt) List.suffix_rfl rfl, or_true]
  | inln =>
    rcases execInln_cases s with ⟨e, -⟩ | ⟨text, lines, hl, e⟩
    · cases h.symm.trans e
    · cases h.symm.trans e
      simp only [hst lines _ (by
        intro c hc
        have h1 := cellsFrom_mem c hc
        have h2 := text.length_take_le s.room
        have h3 := s.cur.isLt
        simp only [State.room] at h1 h2
        omega) hl rfl, or_true]

/-- An instruction has a next state, except INLN without a line, which is held. -/
theorem exec_next_or_held (i : Instr) (s : State) :
    (∃ t, exec i s = .next t) ∨ (i = .inln ∧ s.NoLine ∧ exec i s = .fault .heldOnInput) := by
  cases i with
  | inln =>
    rcases execInln_cases s with ⟨e, h⟩ | ⟨_, _, -, e⟩
    · exact .inr ⟨rfl, h, e⟩
    · exact .inl ⟨_, e⟩
  | call m => rcases execCall_cases m s with ⟨-, e⟩ | ⟨-, e⟩ <;> exact .inl ⟨_, e⟩
  | ret => rcases execRet_cases s with ⟨_, -, e⟩ | ⟨-, e⟩ <;> exact .inl ⟨_, e⟩
  | _ => exact .inl ⟨_, rfl⟩

/-! ### Steps -/

theorem State.fetchable_iff (s : State) : s.fetchable = true ↔ s.pc.toNat + 3 ≤ 65536 :=
  decide_eq_true_iff

/-- Where the machine fetches, the advance does not wrap (10_state.md R29). -/
theorem State.atDispatch_pc_toNat {s : State} (h : s.pc.toNat + 3 ≤ 65536) :
    s.atDispatch.pc.toNat = s.pc.toNat + 3 := by
  have e : (3 : PcWord).toNat = 3 := rfl
  rw [State.atDispatch_pc, BitVec.toNat_add, e, Nat.mod_eq_of_lt (by omega)]

/-- At dispatch the fetch address is found again at `pc - 3`. -/
theorem State.atDispatch_pc_sub (s : State) : s.atDispatch.pc - 3 = s.pc := by
  rw [State.atDispatch_pc, BitVec.add_sub_cancel]

/-- What the fatal-error sequence records at dispatch: the fetch address and the fetched word. -/
theorem State.atDispatch_raise_record (s : State) (e : ErrorKind) :
    (s.atDispatch.raise e).faultAddr = s.pc ∧ (s.atDispatch.raise e).faultWord = s.fetchWord := by
  simp only [State.raise_faultAddr, State.raise_faultWord, State.atDispatch_pc_sub,
    State.atDispatch_mem, State.fetchWord, and_self]

theorem step_of_halted {s : State} (h : s.halted = true) : step s = .fault .halted := by
  simp only [step, stepWith, h, if_true]

theorem step_of_irq {s : State} (h : s.halted = false) (hi : s.irqNow = true) :
    step s = .next s.passBoundary.interruptHalt := by
  simp [step, stepWith, h, hi]

theorem step_of_fetch_end {s : State} (h : s.halted = false) (hi : s.irqNow = false)
    (hp : 65536 < s.pc.toNat + 3) : step s = .next s.passBoundary.fetchEndHalt := by
  have : s.fetchable = false := decide_eq_false (by omega)
  simp [step, stepWith, h, hi, this]

theorem step_of_illegal {s : State} (h : s.Fetches) {r : DecodeReject}
    (hd : decodeWord s.fetchWord = .error r) : step s = .next (s.atDispatch.raise .decode) := by
  simp [step, stepWith, h.1, h.2.1, s.fetchable_iff.mpr h.2.2, hd]

theorem step_of_runs {s : State} {i : Instr} (h : s.Runs i) : step s = exec i s.atDispatch := by
  simp [step, stepWith, h.1.1, h.1.2.1, s.fetchable_iff.mpr h.1.2.2, h.2]

/-- All that a step can do. -/
theorem step_cases (s : State) :
    (s.halted = true ∧ step s = .fault .halted) ∨
    (s.halted = false ∧ s.irqNow = true ∧ step s = .next s.passBoundary.interruptHalt) ∨
    (s.halted = false ∧ s.irqNow = false ∧ 65536 < s.pc.toNat + 3 ∧
      step s = .next s.passBoundary.fetchEndHalt) ∨
    (s.Fetches ∧ (∃ r, decodeWord s.fetchWord = .error r) ∧
      step s = .next (s.atDispatch.raise .decode)) ∨
    (∃ i, s.Runs i ∧ step s = exec i s.atDispatch) := by
  cases hh : s.halted with
  | true => exact .inl ⟨rfl, step_of_halted hh⟩
  | false =>
    cases hi : s.irqNow with
    | true => exact .inr (.inl ⟨rfl, rfl, step_of_irq hh hi⟩)
    | false =>
      by_cases hp : s.pc.toNat + 3 ≤ 65536
      · cases hd : decodeWord s.fetchWord with
        | error r =>
          exact .inr (.inr (.inr (.inl ⟨⟨hh, hi, hp⟩, ⟨r, rfl⟩, step_of_illegal ⟨hh, hi, hp⟩ hd⟩)))
        | ok i =>
          exact .inr (.inr (.inr (.inr ⟨i, ⟨⟨hh, hi, hp⟩, hd⟩, step_of_runs ⟨⟨hh, hi, hp⟩, hd⟩⟩)))
      · exact .inr (.inr (.inl ⟨rfl, rfl, by omega, step_of_fetch_end hh hi (by omega)⟩))

end Sys2Proof.Machine
end

