-- ==== Sys2Proof/Tests/Slice0.lean ====
section
/-! SUPPORT. The model's own tests. The expected results are those of 95_test_vectors.md (T.. and V.. in the
comments) or are worked out by hand from the rule named; after them one witness or more for every statement
that has hypotheses. -/

namespace Sys2Proof.Tests

open Sys2Proof.Machine

/-! ### Operand validation: the smallest invalid value of each field (V7) -/

theorem test_register_16_is_refused : (Operand.reg 16).fits = false := by decide
theorem test_imm4_16_is_refused : (Operand.imm4 16).fits = false := by decide
theorem test_imm8_256_is_refused : (Operand.imm8 256).fits = false := by decide
theorem test_imm12_4096_is_refused : (Operand.imm12 4096).fits = false := by decide
theorem test_imm16_65536_is_refused : (Operand.imm16 65536).fits = false := by decide

/-- The largest valid value of each field (V7). -/
theorem test_largest_operands_fit :
    [Operand.reg 15, .imm4 15, .imm8 255, .imm12 4095, .imm16 65535].all Operand.fits = true := by decide

/-! ### Decoding: one word per constructor, written out from 30_encoding.md R91; `F` in ignored places -/

theorem test_decode_halt : decodeTableWord 24 0x000005 = some (.halt 5) := by decide
theorem test_decode_loadi : decodeTableWord 24 0x01A123 = some (.loadi 10 0x123) := by decide
theorem test_decode_ldm : decodeTableWord 24 0x02FFF0 = some (.ldm 15) := by decide
theorem test_decode_stm : decodeTableWord 24 0x022FF1 = some (.stm 2) := by decide
theorem test_decode_ldb : decodeTableWord 24 0x02AFF2 = some (.ldb 10) := by decide
theorem test_decode_stb : decodeTableWord 24 0x021FF3 = some (.stb 1) := by decide
theorem test_decode_seti : decodeTableWord 24 0x03ABCD = some (.seti 0xABCD) := by decide
theorem test_decode_jump : decodeTableWord 24 0x04FFFE = some (.jump 0xFFFE) := by decide
theorem test_decode_prtz : decodeTableWord 24 0x050FFF = some .prtz := by decide
theorem test_decode_prtn : decodeTableWord 24 0x051ABC = some (.prtn 0xABC) := by decide
theorem test_decode_putc : decodeTableWord 24 0x052F0A = some (.putc 0x0A) := by decide
theorem test_decode_prtd : decodeTableWord 24 0x053FFF = some .prtd := by decide
theorem test_decode_inln : decodeTableWord 24 0x06FFFF = some .inln := by decide
theorem test_decode_skei : decodeTableWord 24 0x070123 = some (.skei 0 0x123) := by decide
theorem test_decode_skni : decodeTableWord 24 0x0830FF = some (.skni 3 0x0FF) := by decide
theorem test_decode_sker : decodeTableWord 24 0x0912F0 = some (.sker 1 2) := by decide
theorem test_decode_sknr : decodeTableWord 24 0x0912F1 = some (.sknr 1 2) := by decide
theorem test_decode_addx : decodeTableWord 24 0x0A8001 = some (.addx 0x8001) := by decide
theorem test_decode_subx : decodeTableWord 24 0x0B2345 = some (.subx 0x2345) := by decide
theorem test_decode_addi : decodeTableWord 24 0x0C2FFF = some (.addi 2 0xFFF) := by decide
theorem test_decode_subi : decodeTableWord 24 0x0D0001 = some (.subi 0 1) := by decide
theorem test_decode_muli : decodeTableWord 24 0x0E1064 = some (.muli 1 100) := by decide
theorem test_decode_divi : decodeTableWord 24 0x0F7000 = some (.divi 7 0) := by decide
theorem test_decode_addr : decodeTableWord 24 0x1010F0 = some (.addr 1 0) := by decide
theorem test_decode_subr : decodeTableWord 24 0x1045F1 = some (.subr 4 5) := by decide
theorem test_decode_mulr : decodeTableWord 24 0x1012F2 = some (.mulr 1 2) := by decide
theorem test_decode_divr : decodeTableWord 24 0x1023F3 = some (.divr 2 3) := by decide
theorem test_decode_copy : decodeTableWord 24 0x1001F4 = some (.copy 0 1) := by decide
theorem test_decode_call : decodeTableWord 24 0x110018 = some (.call 0x18) := by decide
theorem test_decode_ret : decodeTableWord 24 0x12FFFF = some .ret := by decide
theorem test_decode_selx : decodeTableWord 24 0x13FFFA = some (.selx 10) := by decide

/-- The illegal neighbours of T3 and T7 to T11. -/
theorem test_decode_illegal :
    [0xFFFFFF, 0x140000, 0x020004, 0x054000, 0x090002, 0x100005].all
      (fun w => decodeTableWord 24 w == none) = true := by decide

/-- Two bytes are no instruction. -/
theorem test_decode_truncated : decodeBytes [0x01, 0xA1] = .error .truncated := by rfl

/-- The word of V1 as the encoder writes it, most significant byte first. -/
theorem test_encode_halt : encodeBytes (.halt 5) = [0x00, 0x00, 0x05] := by decide

/-- Ignored bits are written as 0 (30_encoding.md R89). -/
theorem test_encode_mulr : encodeBytes (.mulr 1 2) = [0x10, 0x12, 0x02] := by decide

/-! ### One step -/

/-- The next state of an outcome. -/
def nextOf : Host.Outcome State Fault Refusal → Option State
  | .next t => some t
  | .fault _ => none
  | .refused _ => none

/-- One step of `s` with the word `w` stored at its `pc`. -/
def stepOn (s : State) (w : Nat) : Option State := nextOf (step (s.withFetchWord 24 w))

/-- Reset with these memory cells. -/
def withCells (cells : List Host.Cell) : State :=
  State.reset.setMem (Memory.writeCells [] cells)

-- T13
theorem test_halt : (stepOn .reset 0x00FFFF).map
    (fun t => (t.halted, t.exitCode, t.haltCause, t.pc)) = some (true, 0xFFFF, .haltInstr, 3) := by decide
-- T14
theorem test_jump : (stepOn .reset 0x04FFFE).map (·.pc) = some 0xFFFE := by decide
-- T16, T17
theorem test_skei_taken : (stepOn (State.reset.setPc 0xC) 0x070000).map (·.pc) = some 0x12 := by decide
theorem test_skei_not_taken :
    (stepOn ((State.reset.setPc 0xC).setReg 0 1) 0x070000).map (·.pc) = some 0xF := by decide
-- T18, T19
theorem test_skni_not_taken :
    (stepOn (State.reset.setReg 3 0xFF) 0x0830FF).map (·.pc) = some 3 := by decide
theorem test_skni_taken : (stepOn (State.reset.setReg 3 0xFF) 0x083100).map (·.pc) = some 6 := by decide
-- T20, T21
theorem test_sker_taken :
    (stepOn ((State.reset.setReg 1 7).setReg 2 7) 0x091200).map (·.pc) = some 6 := by decide
theorem test_sker_not_taken :
    (stepOn ((State.reset.setReg 1 7).setReg 2 8) 0x091200).map (·.pc) = some 3 := by decide
-- T23, and the example of 40_control.md R115
theorem test_sknr_same_register : (stepOn .reset 0x094401).map (·.pc) = some 3 := by decide
theorem test_sknr_taken :
    (stepOn ((State.reset.setReg 1 7).setReg 2 8) 0x091201).map (·.pc) = some 6 := by decide
-- T24
theorem test_skip_at_the_top : (stepOn (State.reset.setPc 0xFFFD) 0x070000).map (·.pc) = some 0x10003 := by
  decide
-- T25, T27
theorem test_call : (stepOn (State.reset.setPc 6) 0x110018).map (fun t => (t.stk, t.sp, t.pc)) =
    some ([9], 1, 0x18) := by decide
theorem test_call_full :
    (stepOn { State.reset with pc := 0x100, stk := [7], cfg := ⟨1, .twelve⟩ } 0x110200).map
      (fun t => (t.stk, t.pc, t.faultAddr, t.faultWord, t.haltCause, t.halted)) =
    some ([7], 0x103, 0x100, 0x110200, .stackOverflow, true) := by decide
-- T28, T29
theorem test_ret : (stepOn { State.reset with pc := 0x1B, stk := [5, 9] } 0x120000).map
    (fun t => (t.stk, t.pc)) = some ([5], 9) := by decide
theorem test_ret_empty : (stepOn .reset 0x120000).map
    (fun t => (t.sp, t.pc, t.faultAddr, t.faultWord, t.haltCause, t.halted)) =
    some (0, 3, 0, 0x120000, .stackUnderflow, true) := by decide
-- T31
theorem test_loadi : (stepOn .reset 0x01AFFF).map (fun t => (t.reg 10, t.reg 9)) = some (0xFFF, 0) := by
  decide
-- T32, T38
theorem test_ldm :
    (stepOn (((withCells [(0x20, 0x47), (0x21, 0x09)]).setCur 0x20).setReg 2 0x555) 0x021000).map
      (fun t => (t.reg 0, t.reg 1, t.reg 2)) = some (0x47, 0x09, 0x555) := by decide
theorem test_ldm_wraps :
    (stepOn { withCells [(0xFFFF, 0xAA), (0, 0xBB)] with
      pc := 0x100, idx := Vector.replicate 16 0xFFFF } 0x021000).map
      (fun t => (t.reg 0, t.reg 1)) = some (0xAA, 0xBB) := by decide
-- T34, T37
theorem test_stm :
    (stepOn ((((State.reset.setCur 0x100).setReg 0 0x141).setReg 1 0x042).setReg 2 0xFFF) 0x022001).map
      (fun t => (t.mem.readRange 0x100 4, t.reg 0)) = some ([0x41, 0x42, 0xFF, 0], 0x141) := by decide
theorem test_stm_wraps :
    (stepOn (((((State.reset.setPc 0x100).setCur 0xFFFE).setReg 0 0x41).setReg 1 0x42).setReg 2 0x43)
      0x022001).map (fun t => (t.mem.readRange 0xFFFE 2, t.mem.read 0, t.cur)) =
    some ([0x41, 0x42], 0x43, 0xFFFE) := by decide
-- T35, T39
theorem test_ldb :
    (stepOn (((withCells [(0x21, 0x09)]).setCur 0x21).setReg 5 0xFFF) 0x025002).map (·.reg 5) =
    some 0x009 := by decide
theorem test_ldb_uses_the_selected_slot :
    (stepOn (((withCells [(0x40, 1), (0x50, 2)]).setCur 0x50).setSel 3 |>.setCur 0x40) 0x020002).map
      (·.reg 0) = some 1 := by decide
-- T36
theorem test_stb : (stepOn ((State.reset.setCur 0x30).setReg 0 0x27F) 0x020003).map
    (fun t => (t.mem.read 0x30, t.reg 0)) = some (0x7F, 0x27F) := by decide
-- T41
theorem test_seti : (stepOn ((State.reset.setCur 0x20).setSel 1) 0x030030).map
    (fun t => (t.slot 1, t.slot 0)) = some (0x30, 0x20) := by decide
-- T43, T44
theorem test_addx_wraps : (stepOn (State.reset.setCur 0xFFFF) 0x0A0001).map (·.slot 0) = some 0 := by decide
theorem test_addx_large : (stepOn (State.reset.setCur 0x20) 0x0AFFFF).map (·.slot 0) = some 0x1F := by decide
-- T46, T47
theorem test_subx_wraps : (stepOn .reset 0x0B0001).map (·.slot 0) = some 0xFFFF := by decide
theorem test_subx : (stepOn (State.reset.setCur 0x1234) 0x0B2345).map (·.slot 0) = some 0xEEEF := by decide
-- T49
theorem test_selx : (stepOn (((State.reset.setSel 1).setCur 0x30).setSel 0 |>.setCur 0x20) 0x130001).map
    (fun t => (t.sel, t.cur, t.slot 0)) = some (1, 0x30, 0x20) := by decide
-- T51, T53
theorem test_prtz : (stepOn ((withCells [(0xC, 0x68), (0xD, 0x69)]).setCur 0xC) 0x050000).map (·.out) =
    some [0x68, 0x69] := by decide
theorem test_prtz_stops_at_memory_end :
    (stepOn ((withCells [(0xFFFE, 0x41), (0xFFFF, 0x42)]).setCur 0xFFFE) 0x050000).map (·.out) =
    some [0x41, 0x42] := by decide
-- T54, T55
theorem test_prtn : (stepOn ((withCells [(0x100, 0x41), (0x102, 0x42)]).setCur 0x100) 0x051003).map (·.out) =
    some [0x41, 0x00, 0x42] := by decide
theorem test_prtn_clips :
    (stepOn ((withCells [(0xFFFE, 0x41), (0xFFFF, 0x42)]).setCur 0xFFFE) 0x051005).map (·.out) =
    some [0x41, 0x42] := by decide
-- T58
theorem test_putc : (stepOn (State.reset.emit [0x41]) 0x052F0A).map (·.out) = some [0x41, 0x0A] := by decide
-- T59
theorem test_prtd : (stepOn ((withCells [(0x10, 127)]).setCur 0x10) 0x053000).map (·.out) =
    some [0x31, 0x32, 0x37] := by decide
theorem test_decimal : (decimal 0, decimal 7, decimal 42, decimal 255) =
    ([0x30], [0x37], [0x34, 0x32], [0x32, 0x35, 0x35]) := by decide
-- T60, T61
theorem test_inln :
    (stepOn (((withCells [(0x203, 0x99)]).setCur 0x200).supplyLine [0x61, 0x62, 0x63]) 0x060000).map
      (fun t => (t.mem.readRange 0x200 4, t.inLines)) = some ([0x61, 0x62, 0x63, 0x99], []) := by decide
theorem test_inln_clips :
    (stepOn (((State.reset.setCur 0xFFFE).supplyLine [0x61, 0x62, 0x63, 0x64]).setPc 0x100) 0x060000).map
      (fun t => (t.mem.readRange 0xFFFE 2, t.mem.read 0)) = some ([0x61, 0x62], 0) := by decide
-- T63, T65
theorem test_addi : (stepOn (State.reset.setReg 2 0x00A) 0x0C2005).map (·.reg 2) = some 0x00F := by decide
theorem test_addi_wraps : (stepOn (State.reset.setReg 0 0xFFF) 0x0C0FFF).map (·.reg 0) = some 0xFFE := by decide
-- T68
theorem test_subi_wraps : (stepOn .reset 0x0D0FFF).map (·.reg 0) = some 0x001 := by decide
-- T69, T70
theorem test_muli : (stepOn (State.reset.setReg 1 0x064) 0x0E1064).map (·.reg 1) = some 0x710 := by decide
theorem test_muli_wraps : (stepOn (State.reset.setReg 0 0xFFF) 0x0E0FFF).map (·.reg 0) = some 0x001 := by decide
-- T73, T77
theorem test_divi : (stepOn (State.reset.setReg 0 0x064) 0x0F0007).map (·.reg 0) = some 0x00E := by decide
theorem test_divi_by_zero :
    (stepOn ((State.reset.setPc 0x30).setReg 7 0x107) 0x0F7000).map
      (fun t => (t.reg 7, t.pc, t.faultAddr, t.faultWord, t.haltCause)) =
    some (0x107, 0x33, 0x30, 0x0F7000, .runtimeError) := by decide
-- T79, T81
theorem test_addr : (stepOn (State.reset.setReg 0 5) 0x101000).map (fun t => (t.reg 1, t.reg 0)) =
    some (5, 5) := by decide
theorem test_addr_same : (stepOn (State.reset.setReg 3 0xABC) 0x103300).map (·.reg 3) = some 0x578 := by decide
-- T83
theorem test_subr : (stepOn ((State.reset.setReg 4 3).setReg 5 5) 0x104501).map
    (fun t => (t.reg 4, t.reg 5)) = some (0xFFE, 5) := by decide
-- T85, T86
theorem test_mulr : (stepOn ((State.reset.setReg 0 0x47).setReg 1 9) 0x100102).map (·.reg 0) =
    some 0x27F := by decide
theorem test_mulr_same : (stepOn (State.reset.setReg 2 0xABC) 0x102202).map (·.reg 2) = some 0xA10 := by decide
-- T88, T91
theorem test_divr : (stepOn ((State.reset.setReg 2 0xFFF).setReg 3 0x10) 0x102303).map (·.reg 2) =
    some 0x0FF := by decide
theorem test_divr_by_zero : (stepOn (State.reset.setReg 2 0x123) 0x102303).map
    (fun t => (t.reg 2, t.haltCause, t.faultWord)) = some (0x123, .runtimeError, 0x102303) := by decide
-- T92, T93
theorem test_copy : (stepOn ((State.reset.setReg 1 0x27F).setReg 0 0xFFF) 0x100104).map (·.reg 0) =
    some 0x27F := by decide
theorem test_copy_eight : (stepOn { State.reset.setReg 1 0x27F with cfg := ⟨255, .eight⟩ } 0x100104).map
    (·.reg 0) = some 0x07F := by decide

/-! ### Events and priority -/

-- T97
theorem test_interrupt_before_bound :
    (nextOf (step { State.reset with pc := 0xFFFE, irq := [true] })).map
      (fun t => (t.haltCause, t.exitCode, t.pc, t.halted)) = some (.interrupt, 0, 0xFFFE, true) := by decide
-- T98
theorem test_interrupt_before_fetch :
    (stepOn { State.reset with irq := [true] } 0xFFFFFF).map (fun t => (t.haltCause, t.faultWord)) =
    some (.interrupt, 0) := by decide
-- T99
theorem test_halted_has_no_step :
    (nextOf (step { State.reset with halted := true, haltCause := .haltInstr, exitCode := 5, irq := [true] }) =
      none) := by decide
-- T100
theorem test_fetch_at_the_top :
    (stepOn ((State.reset.setPc 0xFFFD).setReg 0 1) 0x0C0001).map (fun t => (t.reg 0, t.pc)) =
    some (2, 0x10000) := by decide
-- T101
theorem test_fetch_end : (nextOf (step (State.reset.setPc 0xFFFE))).map
    (fun t => (t.haltCause, t.pc, t.faultWord, t.halted)) = some (.fetchEnd, 0xFFFE, 0, true) := by decide
-- T3
theorem test_decode_error : (stepOn .reset 0xFFFFFF).map
    (fun t => (t.haltCause, t.faultAddr, t.faultWord, t.pc, t.halted)) =
    some (.decodeError, 0, 0xFFFFFF, 3, true) := by decide

/-- An image goes to address 0 on, the first byte first; a zero byte leaves no entry (20_memory.md R69). -/
theorem test_image : Memory.ofImage [0x00, 0x00, 0x05] = [(2, 0x05)] := by decide

/-! ### Witnesses: a state and operands that meet the hypotheses of each statement, clause by clause -/

/-- Reset with one instruction word under the first fetch. -/
def holding (w : Nat) : State := State.reset.withFetchWord 24 w

/-- Reset just below the end of memory, with one instruction word under the fetch. -/
def holdingAtTop (w : Nat) : State := (State.reset.setPc 0xFFFD).withFetchWord 24 w

theorem fetches_holdingAtTop (w : Nat) : (holdingAtTop w).Fetches :=
  ⟨rfl, rfl, (by decide : (State.reset.setPc 0xFFFD).pc.toNat + 3 ≤ 65536)⟩

theorem fetches_holding (w : Nat) : (holding w).Fetches :=
  ⟨rfl, rfl, (by decide : State.reset.pc.toNat + 3 ≤ 65536)⟩

/-- The ignored bits of MULR are 7 to 4. -/
theorem witness_IgnoredBitsChangeNothing :
    decodeWord 0x1012F2 = .ok (.mulr 1 2) ∧
      0x101202#24 ||| (Instr.mulr 1 2).row.ignored = 0x1012F2#24 ||| (Instr.mulr 1 2).row.ignored :=
  ⟨rfl, rfl⟩

theorem witness_StepRunsTheDecodedInstruction : (holdingAtTop 0x0C0001).Runs (.addi 0 1) :=
  ⟨fetches_holdingAtTop _, rfl⟩

theorem witness_StoredWordIsRunNext :
    (State.reset.setPc 0xFFFD).Fetches ∧ 0xFFFFFF < 2 ^ 24 ∧
      decodeTableWord 24 0x0C0001 = some (.addi 0 1) :=
  ⟨⟨rfl, rfl, by decide⟩, by decide, by decide⟩

theorem witness_InterruptRequestHalts :
    ({ State.reset with irq := [true], pc := 0xFFFE } : State).halted = false ∧
      ({ State.reset with irq := [true], pc := 0xFFFE } : State).irqNow = true := by decide

theorem witness_FetchBeyondMemoryHalts :
    (State.reset.setPc 65534).halted = false ∧ (State.reset.setPc 65534).irqNow = false ∧
      65534 ≤ (State.reset.setPc 65534).pc.toNat := by decide

/-- The lowest illegal value of each of the five clauses. -/
theorem witness_IllegalWordRaisesDecodeError :
    (∀ w ∈ [0x140000, 0x020004, 0x054000, 0x090002, 0x100005], (holding w).Fetches) ∧
      0x14 ≤ (holding 0x140000).fetchWord.toNat / 65536 ∧
      ((holding 0x020004).fetchWord.toNat / 65536 = 0x02 ∧
        4 ≤ (holding 0x020004).fetchWord.toNat % 16) ∧
      ((holding 0x054000).fetchWord.toNat / 65536 = 0x05 ∧
        4 ≤ (holding 0x054000).fetchWord.toNat / 4096 % 16) ∧
      ((holding 0x090002).fetchWord.toNat / 65536 = 0x09 ∧
        2 ≤ (holding 0x090002).fetchWord.toNat % 16) ∧
      ((holding 0x100005).fetchWord.toNat / 65536 = 0x10 ∧
        5 ≤ (holding 0x100005).fetchWord.toNat % 16) :=
  ⟨fun w _ => fetches_holding w, by decide, by decide, by decide, by decide, by decide⟩

/-- Each of the four errors is ahead of some state that fetches. -/
theorem witness_FatalErrorsArePrecise :
    ((holding 0x140000).Fetches ∧ (holding 0x140000).errorAhead = some .decode) ∧
    ((holding 0x0F0000).Fetches ∧ (holding 0x0F0000).errorAhead = some .runtime) ∧
    (({ holding 0x110200 with cfg := ⟨0, .twelve⟩ } : State).Fetches ∧
      ({ holding 0x110200 with cfg := ⟨0, .twelve⟩ } : State).errorAhead = some .overflow) ∧
    ((holding 0x120000).Fetches ∧ (holding 0x120000).errorAhead = some .underflow) :=
  ⟨⟨fetches_holding _, by decide⟩, ⟨fetches_holding _, by decide⟩, ⟨⟨rfl, rfl, by decide⟩, by decide⟩,
    ⟨fetches_holding _, by decide⟩⟩

theorem witness_HaltFlagIsSetByTheSevenEventsOnly :
    (State.reset.haltWith .haltInstr 0).halted = true ∧ ∃ t, step (holding 0x000005) = .next t :=
  ⟨rfl, _, rfl⟩

theorem witness_HaltCauseNamesItsEvent :
    (holding 0x000005).haltCause = .none ∧ ∃ t, step (holding 0x000005) = .next t :=
  ⟨rfl, _, rfl⟩

theorem witness_StepExistsUnlessHaltedOrHeld :
    (holding 0x060000).halted = false ∧ ¬ ((holding 0x060000).Runs .inln ∧ (holding 0x060000).NoLine) :=
  ⟨rfl, fun h => absurd h.2.2 (by decide)⟩

theorem witness_JumpGoesToItsTarget :
    65534 ≤ (0xFFFE#16).toNat ∧ State.reset.halted = false ∧ State.reset.irqNow = false := by decide

/-- One entry below the capacity, and at the capacity. -/
theorem witness_CallPushesTheAdvancedPc :
    ({ State.reset with stk := List.replicate 254 9 } : State).sp < 255 ∧
      ({ State.reset with stk := List.replicate 254 9 } : State).cfg.stackCapacity = 255 ∧
      ({ State.reset with stk := List.replicate 255 9 } : State).cfg.stackCapacity ≤
        ({ State.reset with stk := List.replicate 255 9 } : State).sp :=
  ⟨by rw [State.sp, List.length_replicate]; decide, rfl, by rw [State.sp, List.length_replicate]; decide⟩

theorem witness_RetPopsTheTopEntry :
    0 < ({ State.reset with stk := [0x10000] } : State).sp ∧ State.reset.sp = 0 := by decide

/-- `CALL 3` at address 0 with a `RET` at address 3: after no further step the RET is about to run. -/
theorem witness_CallReturnPairing :
    ∃ s s1 : State, s.Runs (.call 3) ∧ s.sp < s.cfg.stackCapacity ∧ step s = .next s1 ∧
      Sys2Proof.core.run 0 s1 = .next s1 ∧ s.sp + 1 ≤ s1.sp ∧ s1.sp = s.sp + 1 ∧ s1.Runs .ret :=
  ⟨withCells [(0, 0x11), (2, 3), (3, 0x12)], _, ⟨⟨rfl, rfl, by decide⟩, rfl⟩, by decide, rfl, rfl,
    by decide, by decide, ⟨⟨rfl, rfl, by decide⟩, rfl⟩⟩

/-- The register number bound itself is within the bound, and the addresses wrap there. -/
theorem witness_LdmLoadsOneCellPerRegister :
    (15 : RegId) ≤ 15 ∧ (State.reset.setCur 0xFFFF).elemAddr 15 = 14 := by decide

theorem witness_StmStoresOneCellPerRegister :
    (15 : RegId) ≤ 15 ∧ (State.reset.setCur 0xFFF1).elemAddr 15 = 0 := by decide

theorem witness_PutcWritesItsByte :
    (0x052F0A#24).toNat / 65536 = 0x05 ∧ (0x052F0A#24).toNat / 4096 % 16 = 2 := by decide

/-- A line that does not fit above `cur`, and the end of input. -/
theorem witness_InlnStoresTheLineClipped :
    ((State.reset.setCur 0xFFFF).supplyLine [0x61, 0x62]).inLines = [0x61, 0x62] :: [] ∧
      State.reset.inLines = [] ∧ State.reset.inEnded = true := by decide

theorem witness_InlnIsHeldExactlyWithoutALine :
    ({ holding 0x060000 with inEnded := false } : State).Runs .inln ∧
      ({ holding 0x060000 with inEnded := false } : State).NoLine :=
  ⟨⟨⟨rfl, rfl, by decide⟩, rfl⟩, rfl, rfl⟩

theorem witness_DiviStoresTheQuotientOrFails : (1 : BitVec 12) ≠ 0 ∧ (0 : BitVec 12) = 0 := by decide

theorem witness_DivrStoresTheQuotientOrFails :
    (State.reset.setReg 3 1).reg 3 ≠ 0 ∧ (State.reset.setReg 3 1).reg 2 = 0 := by decide

theorem witness_CopyFollowsItsMaskSetting :
    State.reset.cfg.copyMask = .twelve ∧
      ({ State.reset with cfg := ⟨255, .eight⟩ } : State).cfg.copyMask = .eight := by decide

theorem witness_RegistersChangeOnlyAsDestinations :
    exec (.loadi 15 1) .reset = .next (State.reset.setReg 15 1) ∧
      (State.reset.setReg 15 1).reg 15 ≠ State.reset.reg 15 := ⟨rfl, by decide⟩

theorem witness_IndexBankChangesOnlyByItsInstructions :
    (exec (.seti 1) .reset = .next (State.reset.setCur 1) ∧
      (State.reset.setCur 1).slot 0 ≠ State.reset.slot 0) ∧
    (exec (.selx 15) .reset = .next (State.reset.setSel 15) ∧
      (State.reset.setSel 15).sel ≠ State.reset.sel) := ⟨⟨rfl, by decide⟩, rfl, by decide⟩

theorem witness_MemoryChangesOnlyByStores :
    ∃ t, exec (.stb 0) ((State.reset.setCur 0xFFFF).setReg 0 1) = .next t ∧
      t.mem.read 0xFFFF ≠ ((State.reset.setCur 0xFFFF).setReg 0 1).mem.read 0xFFFF :=
  ⟨_, rfl, by decide⟩

theorem witness_StackAndPcChangeOnlyByControlTransfer :
    ∃ t, exec (.call 5) .reset = .next t ∧ t.stk ≠ State.reset.stk ∧ t.pc ≠ State.reset.pc :=
  ⟨_, rfl, by decide, by decide⟩

theorem witness_StreamsAndSettingsOverAStep : ∃ t, step (holding 0x05200A) = .next t := ⟨_, rfl⟩

theorem witness_UnselectedSlotsAreNeverRead : (15 : SlotId) ≠ State.reset.sel := by decide

theorem witness_CallStackIsNeverReadAsData :
    (∀ m, Instr.prtz ≠ .call m) ∧ Instr.prtz ≠ .ret := ⟨fun _ h => (by cases h), by decide⟩

theorem witness_MemoryFormIsCanonical :
    Memory.wf [(0, 1), (65535, 2)] = true ∧ (∀ c ∈ [((65535 : Nat), (0 : Byte))], c.1 < 65536) ∧
      ∀ a, a < 65536 → Memory.read [(0, 1)] a = Memory.read [(0, 1)] a :=
  ⟨by decide, by decide, fun _ _ => rfl⟩

/-- The last of the three places of a fetched word, and for INLN the first byte of the line. -/
theorem witness_StoreIsSeenByTheNextFetch :
    (∃ t, exec (.stb 0) (State.reset.setCur 2) = .next t ∧
      (0 : PcWord).toNat + 2 = (State.reset.setCur 2).cur.toNat) ∧
    (∃ t, exec (.stm 15) (State.reset.setCur 0xFFF1) = .next t ∧ (15 : RegId) ≤ 15 ∧
      (0 : PcWord).toNat + 0 = (State.reset.setCur 0xFFF1).elemAddr 15) ∧
    (∃ t, exec .inln ((State.reset.setCur 0xFFFF).supplyLine [0x61]) = .next t ∧
      ((State.reset.setCur 0xFFFF).supplyLine [0x61]).inLines = [0x61] :: [] ∧
      (0xFFFD : PcWord).toNat + 2 = ((State.reset.setCur 0xFFFF).supplyLine [0x61]).cur.toNat + 0) :=
  ⟨⟨_, rfl, by decide⟩, ⟨_, rfl, by decide, by decide⟩, ⟨_, rfl, by decide, by decide⟩⟩

theorem witness_LaunchPlacesTheImage :
    (Launch.mk .default (List.replicate 65536 0) [] true []).image.length ≤ 65536 ∧
      65536 < (Launch.mk .default (List.replicate 65537 0) [] true []).image.length :=
  ⟨by rw [List.length_replicate], by rw [List.length_replicate]; decide⟩

theorem witness_ResetAndLaunchMeetTheInvariant :
    (Launch.mk ⟨1, .eight⟩ [0x0C, 0x00, 0x01] [] true []).cfg.wf = true ∧
      ∃ s, (Launch.mk ⟨1, .eight⟩ [0x0C, 0x00, 0x01] [] true []).run = .next s := ⟨by decide, _, rfl⟩

/-- A state in the middle of a run: a call is open and memory is not empty. -/
theorem witness_StepKeepsTheInvariant :
    ∃ s t : State, s.Inv ∧ step s = .next t ∧ t.pc = 0x10003 := by
  refine ⟨{ holdingAtTop 0x070000 with stk := [0x10000] }, _, ?_, rfl, by decide⟩
  exact ⟨by decide, by decide, by decide, fun a h => (by rw [List.mem_singleton.mp h]; decide), by decide,
    by decide, by decide,
    fun h => absurd h (by decide),
    fun e h => absurd h (by cases e <;> decide)⟩

theorem witness_ExitStatusesAreDistinct :
    HaltCause.stackUnderflow ∈
      [HaltCause.fetchEnd, .decodeError, .runtimeError, .stackOverflow, .stackUnderflow] ∧
    statusOf .stackUnderflow = statusOf .stackUnderflow := ⟨by decide, rfl⟩

end Sys2Proof.Tests
end

section
/-! PROOFS. The fetched word (20_memory.md R55). -/

namespace Sys2Proof.Machine

/-- R81 and R82 together: the first byte of a word is its opcode. -/
theorem fieldOP_wordOfBytes (b0 b1 b2 : Byte) : fieldOP (wordOfBytes b0 b1 b2) = b0 := by
  have h1 := b1.isLt
  have h2 := b2.isLt
  apply BitVec.eq_of_toNat_eq
  rw [fieldOP_toNat, wordOfBytes_toNat]
  omega

theorem State.fetchWord_eq_wordOfBytes (s : State) :
    s.fetchWord = wordOfBytes (s.mem.read s.pc.toNat) (s.mem.read (s.pc.toNat + 1))
      (s.mem.read (s.pc.toNat + 2)) := rfl

/-- Settles O7: the fetched word is `wordOfBytes` of the three bytes from `pc` on. -/
theorem fetchIsBigEndian : Obligations.FetchIsBigEndian := by
  intro s
  rw [State.fetchWord_eq_wordOfBytes]
  exact ⟨wordOfBytes_toNat _ _ _, fieldOP_wordOfBytes _ _ _⟩

end Sys2Proof.Machine
end

section
/-! PROOFS. The decoder against the opcode map (30_encoding.md R82, R83, R87, R88, R91). -/

namespace Sys2Proof

/-! ### The fields -/

/-- Settles O5: each field by its lemma, each overlap by comparing the two fields as numbers. -/
theorem fieldsAreViewsOfOneWord : Obligations.FieldsAreViewsOfOneWord := by
  intro w
  refine ⟨fieldOP_toNat w, fieldX_toNat w, fieldY_toNat w, fieldMMMM_toNat w, fieldNNN_toNat w, fieldK_toNat w,
    ?_, ?_, ?_, ?_, ?_, ?_⟩
  all_goals
    apply BitVec.eq_of_toNat_eq
    simp only [BitVec.extractLsb'_toNat, Nat.shiftRight_eq_div_pow, fieldX_toNat, fieldY_toNat, fieldMMMM_toNat,
      fieldNNN_toNat, fieldK_toNat]
    omega

/-! ### The rejections -/

/-- R87 and R88 on the fields: every rejection of the decoder. The four named cases are the opcodes with
sub-cases, 0x02, 0x05, 0x09 and 0x10; the last is every opcode from 0x14 on. -/
theorem decodeWord_error_iff {w : InstrWord} {e : DecodeReject} :
    decodeWord w = .error e ↔
      (e = .illegalOpcode ∧ 0x14 ≤ (fieldOP w).toNat) ∨
      (e = .illegalSubcase ∧
        ((fieldOP w).toNat = 0x02 ∧ 4 ≤ (fieldK w).toNat ∨ (fieldOP w).toNat = 0x05 ∧ 4 ≤ (fieldX w).toNat ∨
         (fieldOP w).toNat = 0x09 ∧ 2 ≤ (fieldK w).toNat ∨ (fieldOP w).toNat = 0x10 ∧ 5 ≤ (fieldK w).toNat)) := by
  unfold decodeWord
  split
  case h_3 hop | h_6 hop | h_10 hop | h_17 hop =>
    simp only [decodeTransfer, decodePrint, decodeSkipReg, decodeArithReg, hop]
    split <;> cases e <;> simp_all
    omega
  case h_21 =>
    cases e <;> simp_all
    omega
  all_goals simp [*]

/-- Settles O3: `decodeWord_error_iff` at each of the three reasons. -/
theorem illegalWordsAreExactlyThese : Obligations.IllegalWordsAreExactlyThese := by
  intro w
  simp [decodeWord_error_iff, fieldOP_toNat, fieldX_toNat, fieldK_toNat]

/-! ### The masks of R91 -/

theorem formatM_fields (w : InstrWord) : formatM (fieldOP w) (fieldMMMM w) = w := by
  apply BitVec.eq_of_toNat_eq
  rw [formatM_toNat, fieldOP_toNat, fieldMMMM_toNat]
  omega

theorem formatXN_fields (w : InstrWord) : formatXN (fieldOP w) (fieldX w) (fieldNNN w) = w := by
  apply BitVec.eq_of_toNat_eq
  rw [formatXN_toNat, fieldOP_toNat, fieldX_toNat, fieldNNN_toNat]
  omega

/-- The mask 0xFF0000 keeps the opcode. -/
theorem and_opcode (w : InstrWord) : w &&& 0xFF0000 = formatM (fieldOP w) 0 := by
  conv_lhs => rw [← formatM_fields w, formatM_and_opcode]

/-- The mask 0xFFF000 keeps the opcode and `X`. -/
theorem and_opcode_x (w : InstrWord) : w &&& 0xFFF000 = formatXN (fieldOP w) (fieldX w) 0 := by
  conv_lhs => rw [← formatXN_fields w, formatXN_and_opcode_x]

/-- The mask 0xFF000F keeps the opcode and `K`. -/
theorem and_opcode_k (w : InstrWord) : w &&& 0xFF000F = formatK (fieldOP w) (fieldK w) := by
  have hmid : fieldOP w ++ w.extractLsb' 4 12 = w.extractLsb' 4 20 :=
    BitVec.extractLsb'_append_extractLsb'_eq_extractLsb' rfl
  have hw : fieldOP w ++ w.extractLsb' 4 12 ++ fieldK w = w := by
    rw [hmid, fieldK]
    exact (BitVec.extractLsb'_append_extractLsb'_eq_extractLsb' rfl).trans BitVec.extractLsb'_eq_self
  calc w &&& 0xFF000F
      = (fieldOP w ++ w.extractLsb' 4 12 ++ fieldK w) &&& (BitVec.allOnes 8 ++ 0#12 ++ BitVec.allOnes 4) := by
        rw [hw]; rfl
    _ = formatK (fieldOP w) (fieldK w) := by
        rw [BitVec.and_append, BitVec.and_append, BitVec.and_allOnes, BitVec.and_allOnes, BitVec.and_zero, formatK]

theorem and_opcode_eq_iff {w p : InstrWord} {op : Nat} (hp : p.toNat = op * 65536) :
    w &&& 0xFF0000 = p ↔ (fieldOP w).toNat = op := by
  rw [and_opcode, ← BitVec.toNat_inj, formatM_toNat, hp]
  simp

theorem and_opcode_x_eq_iff {w p : InstrWord} {op x : Nat} (hp : p.toNat = op * 65536 + x * 4096) (hx : x < 16) :
    w &&& 0xFFF000 = p ↔ (fieldOP w).toNat = op ∧ (fieldX w).toNat = x := by
  have hx' := (fieldX w).isLt
  have hn : (0 : BitVec 12).toNat = 0 := rfl
  rw [and_opcode_x, ← BitVec.toNat_inj, formatXN_toNat, hp]
  omega

theorem and_opcode_k_eq_iff {w p : InstrWord} {op k : Nat} (hp : p.toNat = op * 65536 + k) (hk : k < 16) :
    w &&& 0xFF000F = p ↔ (fieldOP w).toNat = op ∧ (fieldK w).toNat = k := by
  have hk' := (fieldK w).isLt
  rw [and_opcode_k, ← BitVec.toNat_inj, formatK_toNat, hp]
  omega

/-! ### The rows -/

/-- The OP and sub-case columns of R91: the fields of `w` are those of the instruction's row. -/
def Instr.SelectedBy (w : InstrWord) : Instr → Prop
  | .halt _ => (fieldOP w).toNat = 0x00
  | .loadi _ _ => (fieldOP w).toNat = 0x01
  | .ldm _ => (fieldOP w).toNat = 0x02 ∧ (fieldK w).toNat = 0
  | .stm _ => (fieldOP w).toNat = 0x02 ∧ (fieldK w).toNat = 1
  | .ldb _ => (fieldOP w).toNat = 0x02 ∧ (fieldK w).toNat = 2
  | .stb _ => (fieldOP w).toNat = 0x02 ∧ (fieldK w).toNat = 3
  | .seti _ => (fieldOP w).toNat = 0x03
  | .jump _ => (fieldOP w).toNat = 0x04
  | .prtz => (fieldOP w).toNat = 0x05 ∧ (fieldX w).toNat = 0
  | .prtn _ => (fieldOP w).toNat = 0x05 ∧ (fieldX w).toNat = 1
  | .putc _ => (fieldOP w).toNat = 0x05 ∧ (fieldX w).toNat = 2
  | .prtd => (fieldOP w).toNat = 0x05 ∧ (fieldX w).toNat = 3
  | .inln => (fieldOP w).toNat = 0x06
  | .skei _ _ => (fieldOP w).toNat = 0x07
  | .skni _ _ => (fieldOP w).toNat = 0x08
  | .sker _ _ => (fieldOP w).toNat = 0x09 ∧ (fieldK w).toNat = 0
  | .sknr _ _ => (fieldOP w).toNat = 0x09 ∧ (fieldK w).toNat = 1
  | .addx _ => (fieldOP w).toNat = 0x0A
  | .subx _ => (fieldOP w).toNat = 0x0B
  | .addi _ _ => (fieldOP w).toNat = 0x0C
  | .subi _ _ => (fieldOP w).toNat = 0x0D
  | .muli _ _ => (fieldOP w).toNat = 0x0E
  | .divi _ _ => (fieldOP w).toNat = 0x0F
  | .addr _ _ => (fieldOP w).toNat = 0x10 ∧ (fieldK w).toNat = 0
  | .subr _ _ => (fieldOP w).toNat = 0x10 ∧ (fieldK w).toNat = 1
  | .mulr _ _ => (fieldOP w).toNat = 0x10 ∧ (fieldK w).toNat = 2
  | .divr _ _ => (fieldOP w).toNat = 0x10 ∧ (fieldK w).toNat = 3
  | .copy _ _ => (fieldOP w).toNat = 0x10 ∧ (fieldK w).toNat = 4
  | .call _ => (fieldOP w).toNat = 0x11
  | .ret => (fieldOP w).toNat = 0x12
  | .selx _ => (fieldOP w).toNat = 0x13

/-- The match and mask columns of R91 say the same as its OP and sub-case columns. -/
theorem and_mask_eq_pattern_iff (w : InstrWord) (i : Instr) :
    w &&& i.row.mask = i.row.pattern ↔ i.SelectedBy w := by
  cases i with
  | halt | loadi | seti | jump | inln | skei | skni | addx | subx | addi | subi | muli | divi | call | ret | selx =>
    exact and_opcode_eq_iff rfl
  | prtz | prtn | putc | prtd => exact and_opcode_x_eq_iff rfl (by decide)
  | ldm | stm | ldb | stb | sker | sknr | addr | subr | mulr | divr | copy =>
    exact and_opcode_k_eq_iff rfl (by decide)

/-- The decoder answers with an instruction whose row the word selects. The named cases are the opcodes with
sub-cases, then the illegal opcodes. -/
theorem selectedBy_of_decodeWord_ok {w : InstrWord} {i : Instr} (h : decodeWord w = .ok i) : i.SelectedBy w := by
  unfold decodeWord at h
  split at h
  case h_3 hop | h_6 hop | h_10 hop | h_17 hop =>
    simp only [decodeTransfer, decodePrint, decodeSkipReg, decodeArithReg] at h
    split at h <;> cases h <;> exact ⟨hop, ‹_›⟩
  case h_21 => cases h
  all_goals
    cases h
    assumption

/-- A word that selects a row is not rejected, and decodes to an instruction of that row. -/
theorem decodeWord_ok_of_selectedBy {w : InstrWord} {j : Instr} (h : j.SelectedBy w) :
    ∃ i, decodeWord w = .ok i ∧ i.row = j.row := by
  cases j with
  | halt | loadi | seti | jump | inln | skei | skni | addx | subx | addi | subi | muli | divi | call | ret | selx =>
    simp only [Instr.SelectedBy] at h
    simp only [decodeWord, h]
    exact ⟨_, rfl, rfl⟩
  | prtz | prtn | putc | prtd =>
    obtain ⟨hop, hx⟩ := h
    simp only [decodeWord, decodePrint, hop, hx]
    exact ⟨_, rfl, rfl⟩
  | ldm | stm | ldb | stb | sker | sknr | addr | subr | mulr | divr | copy =>
    obtain ⟨hop, hk⟩ := h
    simp only [decodeWord, decodeTransfer, decodeSkipReg, decodeArithReg, hop, hk]
    exact ⟨_, rfl, rfl⟩

/-- Settles O2: both sides say that the fields of `w` are those of the row. -/
theorem wordSelectsRowByMatchAndMask : Obligations.WordSelectsRowByMatchAndMask := by
  intro w j
  constructor
  · intro h
    exact decodeWord_ok_of_selectedBy ((and_mask_eq_pattern_iff w j).mp h)
  · rintro ⟨i, hi, hrow⟩
    rw [← hrow]
    exact (and_mask_eq_pattern_iff w i).mpr (selectedBy_of_decodeWord_ok hi)

end Sys2Proof
end

section
/-! PROOFS. Halt and control transfer (40_control.md R110 to R118). -/

namespace Sys2Proof.Machine

/-! ### What the updates of control transfer keep -/

theorem Frame.refl (m : May) (s : State) : Frame m s s where
  regs _ _ := rfl
  slots _ _ := rfl
  sel _ := rfl
  pc _ := rfl
  stk _ := rfl
  bytes _ _ := rfl
  halt _ := ⟨rfl, rfl, rfl⟩
  fault _ := ⟨rfl, rfl⟩
  out _ := rfl
  lines _ := rfl
  irq _ := rfl
  ended := rfl
  cfg := rfl

theorem State.frame_setPc (s : State) (p : PcWord) : Frame { pc := True } s (s.setPc p) :=
  { Frame.refl _ s with pc := (absurd trivial ·) }

theorem State.frame_skipIf (s : State) (c : Bool) : Frame { pc := True } s (s.skipIf c) := by
  rw [State.skipIf_eq]
  exact s.frame_setPc _

theorem State.frame_haltWith (s : State) (c : HaltCause) (code : BitVec 16) :
    Frame { halt := True } s (s.haltWith c code) :=
  { Frame.refl _ s with halt := (absurd trivial ·) }

theorem State.frame_raise (s : State) (e : ErrorKind) :
    Frame { halt := True, fault := True } s (s.raise e) :=
  { Frame.refl _ s with halt := (absurd trivial ·), fault := (absurd trivial ·) }

theorem State.frame_pushReturn_setPc (s : State) (a p : PcWord) :
    Frame { pc := True, stk := True } s ((s.pushReturn a).setPc p) :=
  { Frame.refl _ s with pc := (absurd trivial ·), stk := (absurd trivial ·) }

theorem State.frame_dropReturn_setPc (s : State) (p : PcWord) :
    Frame { pc := True, stk := True } s (s.dropReturn.setPc p) :=
  { Frame.refl _ s with pc := (absurd trivial ·), stk := (absurd trivial ·) }

/-! ### HALT, JUMP and the skips -/

/-- Settles O17: HALT is `haltWith`, and a halted state has no step. -/
theorem haltSetsExitCodeAndStops : Obligations.HaltSetsExitCodeAndStops := fun m s =>
  ⟨s.haltWith .haltInstr m, rfl, rfl, rfl, rfl, s.frame_haltWith _ _, step_of_halted rfl⟩

/-- Settles O18: JUMP is `setPc`, and a target past the fetch bound is the implicit halt of the next step. -/
theorem jumpGoesToItsTarget : Obligations.JumpGoesToItsTarget := by
  intro m s
  refine ⟨s.setPc (addrToPc m), rfl, addrToPc_toNat m, s.frame_setPc _, fun hm hhalted hirq => ?_⟩
  have hbeyond : 65536 < (s.setPc (addrToPc m)).pc.toNat + 3 := by
    rw [State.setPc_pc, addrToPc_toNat]
    omega
  exact ⟨_, step_of_fetch_end hhalted hirq hbeyond, rfl, addrToPc_toNat m⟩

theorem State.skipIf_condEqual_pc (s : State) (p q : Word) :
    (s.skipIf (condEqual p q)).pc = if p = q then s.pc + 3 else s.pc := by
  simp only [State.skipIf_pc, condEqual, decide_eq_true_eq]

theorem State.skipIf_condDiffer_pc (s : State) (p q : Word) :
    (s.skipIf (condDiffer p q)).pc = if p = q then s.pc else s.pc + 3 := by
  simp only [State.skipIf_pc, condDiffer, decide_eq_true_eq, ite_not]

/-- Settles O19: each skip is `skipIf` on its condition. -/
theorem skipsPassOverThreeBytes : Obligations.SkipsPassOverThreeBytes := fun _ _ _ s =>
  ⟨⟨_, rfl, s.skipIf_condEqual_pc _ _, s.frame_skipIf _⟩, ⟨_, rfl, s.skipIf_condDiffer_pc _ _, s.frame_skipIf _⟩,
    ⟨_, rfl, s.skipIf_condEqual_pc _ _, s.frame_skipIf _⟩, ⟨_, rfl, s.skipIf_condDiffer_pc _ _, s.frame_skipIf _⟩⟩

/-! ### CALL and RET -/

/-- Settles O20, with and without room on the call stack. -/
theorem callPushesTheAdvancedPc : Obligations.CallPushesTheAdvancedPc := by
  intro m s
  constructor
  · intro hroom
    exact ⟨_, execCall_of_room m hroom, s.pushReturn_sp s.pc, List.getElem?_concat_length,
      fun _ hk => List.getElem?_append_left hk, addrToPc_toNat m, s.frame_pushReturn_setPc _ _⟩
  · intro hfull
    exact ⟨_, execCall_of_full m (Nat.not_lt.mpr hfull), rfl, rfl, s.frame_raise _⟩

/-- RET with a top entry `p`. -/
theorem execRet_of_stk {s : State} {older : List PcWord} {p : PcWord} (h : s.stk = older ++ [p]) :
    execRet s = .next (s.dropReturn.setPc p) := by
  have htop : s.topReturn = some p := by rw [State.topReturn, h, List.getLast?_concat]
  rw [execRet, htop]

theorem execRet_of_empty {s : State} (h : s.sp = 0) : execRet s = .next (s.raise .underflow) := by
  rw [execRet, s.topReturn_eq_none.mpr h]

/-- Settles O21, with and without an entry on the call stack. -/
theorem retPopsTheTopEntry : Obligations.RetPopsTheTopEntry := by
  intro s
  constructor
  · intro hpos
    obtain ⟨older, p, hstk⟩ : ∃ older p, s.stk = older ++ [p] :=
      (List.eq_nil_or_concat' s.stk).resolve_left (List.ne_nil_of_length_pos hpos)
    have hdrop : (s.dropReturn.setPc p).stk = older := by
      rw [State.setPc_stk, State.dropReturn_stk, hstk, List.dropLast_concat]
    refine ⟨_, execRet_of_stk hstk, ?_, ?_, ?_, s.frame_dropReturn_setPc _⟩
    · rw [State.sp, State.sp, hdrop, hstk, List.length_append, List.length_singleton]
    · rw [State.sp, hdrop, hstk, List.getElem?_concat_length, State.setPc_pc]
    · intro k hk
      rw [State.sp, hdrop] at hk
      rw [hdrop, hstk, List.getElem?_append_left hk]
  · intro hempty
    exact ⟨_, execRet_of_empty hempty, rfl, rfl, s.frame_raise _⟩

/-! ### Call and return pair (R118) -/

theorem State.skipIf_stk (s : State) (c : Bool) : (s.skipIf c).stk = s.stk :=
  (s.frame_skipIf c).stk id

/-- An instruction keeps the call stack, pushes one entry or pops one. -/
theorem exec_stk_cases {i : Instr} {s t : State} (h : exec i s = .next t) :
    t.stk = s.stk ∨ (∃ a, t.stk = s.stk ++ [a]) ∨ ∃ p, s.stk = t.stk ++ [p] := by
  rcases exec_next_cases h with ⟨_, -, rfl⟩ | ⟨_, -, rfl⟩ | ⟨_, rfl, -⟩ | ⟨c, rfl⟩ | ⟨-, _, rfl⟩ | ⟨p, hp, rfl⟩ |
    ⟨_, _, rfl⟩ | ⟨_, _, rfl⟩ | ⟨_, rfl⟩ | ⟨_, rfl⟩ | ⟨_, rfl⟩ | ⟨_, _, -, -, rfl⟩
  any_goals exact .inl rfl
  · exact .inl (s.skipIf_stk c)
  · exact .inr (.inl ⟨_, rfl⟩)
  · exact .inr (.inr ⟨p, hp⟩)

/-- A step keeps the call stack, pushes one entry or pops one. -/
theorem step_stk_cases {s t : State} (h : step s = .next t) :
    t.stk = s.stk ∨ (∃ a, t.stk = s.stk ++ [a]) ∨ ∃ p, s.stk = t.stk ++ [p] := by
  rcases step_cases s with ⟨-, e⟩ | ⟨-, -, e⟩ | ⟨-, -, -, e⟩ | ⟨-, -, e⟩ | ⟨i, -, e⟩
  · cases h.symm.trans e
  · cases h.symm.trans e; exact .inl rfl
  · cases h.symm.trans e; exact .inl rfl
  · cases h.symm.trans e; exact .inl rfl
  · exact exec_stk_cases (s := s.atDispatch) (e.symm.trans h)

/-- A step does not touch the oldest entries of the call stack while `sp` stays at or above their number. -/
theorem step_keeps_stk_prefix {base : List PcWord} {s t : State} (h : step s = .next t)
    (hs : base <+: s.stk) (hsp : base.length ≤ t.sp) : base <+: t.stk := by
  rcases step_stk_cases h with e | ⟨a, e⟩ | ⟨p, e⟩
  · exact e ▸ hs
  · exact e ▸ hs.trans (List.prefix_append _ _)
  · exact List.prefix_of_prefix_length_le hs (e ▸ List.prefix_append _ _) hsp

/-- A run of `k + 1` steps is one step and a run of `k` from there. -/
theorem core_run_succ_next_iff {M : Host.Core} {k : Nat} {s u : M.State} :
    M.run (k + 1) s = .next u ↔ ∃ t, M.step s = .next t ∧ M.run k t = .next u := by
  simp only [Host.Core.run]
  split <;> simp [*]

/-- A run does not touch the oldest entries of the call stack if `sp` stays at or above their number. -/
theorem run_keeps_stk_prefix {base : List PcWord} {k : Nat} {s t : State} (hs : base <+: s.stk)
    (hrun : Sys2Proof.core.run k s = .next t)
    (hsp : ∀ (j : Nat) (u : State), j ≤ k → Sys2Proof.core.run j s = .next u → base.length ≤ u.sp) :
    base <+: t.stk := by
  induction k generalizing s with
  | zero =>
    cases hrun
    exact hs
  | succ k ih =>
    obtain ⟨s', hstep, hrun'⟩ := core_run_succ_next_iff.mp hrun
    have hsp' (j : Nat) (u : State) (hj : j ≤ k) (hu : Sys2Proof.core.run j s' = .next u) : base.length ≤ u.sp :=
      hsp (j + 1) u (Nat.succ_le_succ hj) (core_run_succ_next_iff.mpr ⟨s', hstep, hu⟩)
    exact ih (step_keeps_stk_prefix hstep hs (hsp' 0 s' (Nat.zero_le k) rfl)) hrun' hsp'

/-- Settles O22: the entries up to the one CALL pushed stay in place, so the RET finds `a + 3` on top of the call
stack CALL found. -/
theorem callReturnPairing : Obligations.CallReturnPairing := by
  intro s m hcall hroom
  have hbase : (s.stk ++ [s.pc + 3]).length = s.sp + 1 := List.length_append
  refine ⟨(s.atDispatch.pushReturn (s.pc + 3)).setPc (addrToPc m),
    (step_of_runs hcall).trans (execCall_of_room m hroom), s.atDispatch.pushReturn_sp _, ?_⟩
  intro k s2 hrun hsp hsp2 hret
  have hstk : s2.stk = s.stk ++ [s.pc + 3] := by
    have hprefix : s.stk ++ [s.pc + 3] <+: s2.stk :=
      run_keeps_stk_prefix List.prefix_rfl hrun (hbase ▸ hsp)
    exact (hprefix.eq_of_length (hbase.trans hsp2.symm)).symm
  have hdrop : (s2.atDispatch.dropReturn.setPc (s.pc + 3)).stk = s.stk := by
    rw [State.setPc_stk, State.dropReturn_stk, State.atDispatch_stk, hstk, List.dropLast_concat]
  exact ⟨_, (step_of_runs hret).trans (execRet_of_stk hstk), State.atDispatch_pc_toNat hcall.1.2.2,
    congrArg List.length hdrop, hdrop⟩

end Sys2Proof.Machine
end

section
/-! PROOFS. Register load (41_register_memory.md R120). -/

namespace Sys2Proof.Machine

theorem State.setReg_reg_same (s : State) (r : RegId) (v : Word) : (s.setReg r v).reg r = v := by
  rw [State.setReg_reg, if_pos rfl]

theorem State.frame_setReg (s : State) (r : RegId) (v : Word) :
    Frame { regs := (· = r) } s (s.setReg r v) :=
  { Frame.refl _ s with regs := fun q hq => (s.setReg_reg r q v).trans (if_neg hq) }

/-- Settles O23: LOADI is `setReg`. -/
theorem loadiLoadsItsImmediate : Obligations.LoadiLoadsItsImmediate := fun x n s =>
  ⟨s.setReg x n, rfl, s.setReg_reg_same x n, s.frame_setReg x n⟩

end Sys2Proof.Machine
end

section
/-! PROOFS. The index bank: SETI and SELX (42_index_bank.md R130, R133). -/

namespace Sys2Proof.Machine

theorem State.setCur_slot_sel (s : State) (v : Addr) : (s.setCur v).slot s.sel = v := by
  rw [State.setCur_slot, if_pos rfl]

theorem State.frame_setCur (s : State) (v : Addr) :
    Frame { slots := (· = s.sel) } s (s.setCur v) :=
  { Frame.refl _ s with slots := fun j hj => (s.setCur_slot v j).trans (if_neg hj) }

theorem State.frame_setSel (s : State) (k : SlotId) : Frame { sel := True } s (s.setSel k) :=
  { Frame.refl _ s with sel := (absurd trivial ·) }

/-- Settles O27: SETI is `setCur`, SELX is `setSel`. -/
theorem setiAndSelxWriteSlotAndSelector : Obligations.SetiAndSelxWriteSlotAndSelector := fun m k s =>
  ⟨⟨s.setCur m, rfl, s.setCur_slot_sel m, s.frame_setCur m⟩,
    ⟨s.setSel k, rfl, s.setSel_sel k, s.setSel_cur k, s.frame_setSel k⟩⟩

end Sys2Proof.Machine
end

section
/-! PROOFS. Output: PUTC (43_io.md R142). -/

namespace Sys2Proof.Machine

/-- R142: the byte PUTC carries is `NNN & 0xFF`. -/
theorem setWidth_fieldNNN (w : InstrWord) :
    (fieldNNN w).setWidth 8 = BitVec.ofNat 8 (w.toNat % 4096 % 256) := by
  apply BitVec.eq_of_toNat_eq
  rw [BitVec.toNat_setWidth, fieldNNN_toNat, BitVec.toNat_ofNat, Nat.mod_mod]

/-- The PUTC row of R91, with its operand: OP is 0x05 and X is 2. -/
theorem decodeWord_of_putc_fields {w : InstrWord} (hop : (fieldOP w).toNat = 0x05) (hx : (fieldX w).toNat = 2) :
    decodeWord w = .ok (.putc ((fieldNNN w).setWidth 8)) := by
  simp only [decodeWord, decodePrint, hop, hx]

theorem State.frame_emit (s : State) (bs : List Byte) : Frame { out := True } s (s.emit bs) :=
  { Frame.refl _ s with out := (absurd trivial ·) }

/-- Settles O31: the decoder by the fields of the word, PUTC as `emit` of its one byte. -/
theorem putcWritesItsByte : Obligations.PutcWritesItsByte := by
  constructor
  · intro w hop hx
    rw [← setWidth_fieldNNN]
    exact decodeWord_of_putc_fields ((fieldOP_toNat w).trans hop) ((fieldX_toNat w).trans hx)
  · intro b s
    exact ⟨s.emit [b], rfl, s.emit_out [b], s.frame_emit [b]⟩

end Sys2Proof.Machine
end

section
/-! PROOFS. Arithmetic (44_arithmetic.md R153 to R160). -/

namespace Sys2Proof.Machine

/-! ### ADDI, SUBI, MULI, ADDR, SUBR, MULR -/

theorem State.setReg_aluAdd_toNat (s : State) (r : RegId) (p q : Word) :
    ((s.setReg r (aluAdd p q)).reg r).toNat = (p.toNat + q.toNat) % 4096 := by
  rw [State.setReg_reg_same, aluAdd_toNat]

theorem State.setReg_aluSub_toNat (s : State) (r : RegId) (p q : Word) :
    (((s.setReg r (aluSub p q)).reg r).toNat : Int) = (p.toNat - q.toNat : Int) % 4096 := by
  rw [State.setReg_reg_same, aluSub_toNat]

theorem State.setReg_aluMul_toNat (s : State) (r : RegId) (p q : Word) :
    ((s.setReg r (aluMul p q)).reg r).toNat = p.toNat * q.toNat % 4096 := by
  rw [State.setReg_reg_same, aluMul_toNat]

/-- Settles O35: each is `setReg` of its sum, difference or product. -/
theorem immediateArithmeticIsModulo4096 : Obligations.ImmediateArithmeticIsModulo4096 := fun x n s =>
  ⟨⟨_, rfl, s.setReg_aluAdd_toNat x (s.reg x) n, s.frame_setReg x _⟩,
    ⟨_, rfl, s.setReg_aluSub_toNat x (s.reg x) n, s.frame_setReg x _⟩,
    ⟨_, rfl, s.setReg_aluMul_toNat x (s.reg x) n, s.frame_setReg x _⟩⟩

/-- Settles O37: as with an immediate; the operands are read in `s`, before the write, so `X = Y` needs no case
of its own. -/
theorem registerArithmeticIsModulo4096 : Obligations.RegisterArithmeticIsModulo4096 := fun x y s =>
  ⟨⟨_, rfl, s.setReg_aluAdd_toNat x (s.reg x) (s.reg y), s.frame_setReg x _⟩,
    ⟨_, rfl, s.setReg_aluSub_toNat x (s.reg x) (s.reg y), s.frame_setReg x _⟩,
    ⟨_, rfl, s.setReg_aluMul_toNat x (s.reg x) (s.reg y), s.frame_setReg x _⟩⟩

/-! ### DIVI, DIVR -/

theorem State.divideInto_reg_toNat (s : State) (r : RegId) {q : Word} (h : q ≠ 0) :
    ((s.divideInto r q).reg r).toNat = (s.reg r).toNat / q.toNat := by
  rw [s.divideInto_of_ne_zero r h, State.setReg_reg_same, BitVec.toNat_udiv]

theorem State.frame_divideInto (s : State) (r : RegId) {q : Word} (h : q ≠ 0) :
    Frame { regs := (· = r) } s (s.divideInto r q) := by
  rw [s.divideInto_of_ne_zero r h]
  exact s.frame_setReg r _

/-- R152: a zero divisor is a RuntimeError. -/
theorem State.divideInto_of_zero (s : State) (r : RegId) {q : Word} (h : q = 0) :
    s.divideInto r q = s.raise .runtime := by
  rw [State.divideInto, h, aluDiv_zero]

theorem execDivi_of_zero (x : RegId) {n : BitVec 12} (s : State) (h : n = 0) :
    execDivi x n s = .next (s.raise .runtime) := congrArg _ (s.divideInto_of_zero x h)

theorem execDivr_of_zero (x : RegId) {y : RegId} {s : State} (h : s.reg y = 0) :
    execDivr x y s = .next (s.raise .runtime) := congrArg _ (s.divideInto_of_zero x h)

/-- Settles O36: DIVI is `divideInto` by the immediate, which is 0 or not. -/
theorem diviStoresTheQuotientOrFails : Obligations.DiviStoresTheQuotientOrFails := fun x _ s =>
  ⟨fun hn => ⟨_, rfl, s.divideInto_reg_toNat x hn, s.frame_divideInto x hn⟩,
    fun hn => ⟨_, execDivi_of_zero x s hn, rfl, rfl, s.frame_raise _⟩⟩

/-- Settles O38: DIVR is `divideInto` by `x[Y]` as read in `s`, which is 0 or not. -/
theorem divrStoresTheQuotientOrFails : Obligations.DivrStoresTheQuotientOrFails := fun x _ s =>
  ⟨fun hy => ⟨_, rfl, s.divideInto_reg_toNat x hy, s.frame_divideInto x hy⟩,
    fun hy => ⟨_, execDivr_of_zero x hy, rfl, rfl, s.frame_raise _⟩⟩

end Sys2Proof.Machine
end

section
/-! PROOFS. The implicit halt and the illegal word (60_exceptions.md R171, R178). -/

namespace Sys2Proof.Machine

theorem State.frame_passBoundary_haltWith (s : State) (c : HaltCause) (code : BitVec 16) :
    Frame { halt := True, irq := True } s (s.passBoundary.haltWith c code) :=
  { Frame.refl _ s with halt := (absurd trivial ·), irq := (absurd trivial ·) }

theorem State.frame_atDispatch_raise (s : State) (e : ErrorKind) :
    Frame { halt := True, fault := True, pc := True, irq := True } s (s.atDispatch.raise e) :=
  { Frame.refl _ s with
    halt := (absurd trivial ·), fault := (absurd trivial ·), pc := (absurd trivial ·),
    irq := (absurd trivial ·) }

/-- Settles O11: past the fetch bound the step is the implicit halt, which is `haltWith` at the passed boundary. -/
theorem fetchBeyondMemoryHalts : Obligations.FetchBeyondMemoryHalts := by
  intro s hhalted hirq hpc
  have hbeyond : 65536 < s.pc.toNat + 3 := by omega
  exact ⟨_, step_of_fetch_end hhalted hirq hbeyond, rfl, rfl, rfl, s.frame_passBoundary_haltWith _ _⟩

/-- Settles O12: by R87 and R88 the decoder rejects the word, so the step is `raise .decode` at dispatch, which
records the fetch address and the word. -/
theorem illegalWordRaisesDecodeError : Obligations.IllegalWordRaisesDecodeError := by
  intro s hfetch hillegal
  obtain ⟨hopcode, hsubcase, -⟩ := illegalWordsAreExactlyThese s.fetchWord
  have hreject : ∃ r, decodeWord s.fetchWord = .error r :=
    hillegal.elim (⟨_, hopcode.mpr ·⟩) (⟨_, hsubcase.mpr ·⟩)
  obtain ⟨_, hdecode⟩ := hreject
  have hstep := step_of_illegal hfetch hdecode
  obtain ⟨haddr, hword⟩ := s.atDispatch_raise_record .decode
  obtain ⟨-, -, hbound⟩ := hfetch
  exact ⟨_, hstep, rfl, rfl, haddr, hword, State.atDispatch_pc_toNat hbound,
    s.frame_atDispatch_raise _⟩

end Sys2Proof.Machine
end

section
/-! PROOFS. The encoder against the decoder (30_encoding.md R81 to R93). -/

namespace Sys2Proof

/-! ### The fields of each format (30_encoding.md R82, R84) -/

@[simp] theorem fieldOP_formatM (op : Byte) (m : BitVec 16) : fieldOP (formatM op m) = op := by
  apply BitVec.eq_of_toNat_eq
  rw [fieldOP_toNat, formatM_toNat]
  omega

@[simp] theorem fieldMMMM_formatM (op : Byte) (m : BitVec 16) : fieldMMMM (formatM op m) = m := by
  apply BitVec.eq_of_toNat_eq
  rw [fieldMMMM_toNat, formatM_toNat]
  omega

@[simp] theorem fieldOP_formatXN (op : Byte) (x : BitVec 4) (n : BitVec 12) : fieldOP (formatXN op x n) = op := by
  apply BitVec.eq_of_toNat_eq
  rw [fieldOP_toNat, formatXN_toNat]
  omega

@[simp] theorem fieldX_formatXN (op : Byte) (x : BitVec 4) (n : BitVec 12) : fieldX (formatXN op x n) = x := by
  apply BitVec.eq_of_toNat_eq
  rw [fieldX_toNat, formatXN_toNat]
  omega

@[simp] theorem fieldNNN_formatXN (op : Byte) (x : BitVec 4) (n : BitVec 12) : fieldNNN (formatXN op x n) = n := by
  apply BitVec.eq_of_toNat_eq
  rw [fieldNNN_toNat, formatXN_toNat]
  omega

@[simp] theorem fieldOP_formatXYK (op : Byte) (x y k : BitVec 4) : fieldOP (formatXYK op x y k) = op := by
  apply BitVec.eq_of_toNat_eq
  rw [fieldOP_toNat, formatXYK_toNat]
  omega

@[simp] theorem fieldX_formatXYK (op : Byte) (x y k : BitVec 4) : fieldX (formatXYK op x y k) = x := by
  apply BitVec.eq_of_toNat_eq
  rw [fieldX_toNat, formatXYK_toNat]
  omega

@[simp] theorem fieldY_formatXYK (op : Byte) (x y k : BitVec 4) : fieldY (formatXYK op x y k) = y := by
  apply BitVec.eq_of_toNat_eq
  rw [fieldY_toNat, formatXYK_toNat]
  omega

@[simp] theorem fieldK_formatXYK (op : Byte) (x y k : BitVec 4) : fieldK (formatXYK op x y k) = k := by
  apply BitVec.eq_of_toNat_eq
  rw [fieldK_toNat, formatXYK_toNat]
  omega

/-- The ignored bits of format XK are those of format XYK and, in the place of `Y`, 0. -/
theorem formatXK_eq_formatXYK (op : Byte) (x k : BitVec 4) : formatXK op x k = formatXYK op x 0 k := by
  apply BitVec.eq_of_toNat_eq
  simp [formatXK_toNat, formatXYK_toNat]

theorem formatK_eq_formatXYK (op : Byte) (k : BitVec 4) : formatK op k = formatXYK op 0 0 k := by
  apply BitVec.eq_of_toNat_eq
  simp [formatK_toNat, formatXYK_toNat]

theorem formatZ_eq_formatM (op : Byte) : formatZ op = formatM op 0 := rfl

/-- Decoding undoes encoding, row by row of R91. -/
theorem decodeWord_encode (i : Instr) : decodeWord (encode i) = .ok i := by
  cases i with
  | halt | seti | jump | addx | subx | call | loadi | skei | skni | addi | subi | muli | divi =>
    simp [encode, decodeWord]
  | inln | ret =>
    simp [encode, decodeWord, formatZ_eq_formatM]
  | prtz | prtn | putc | prtd =>
    simp [encode, decodeWord, decodePrint]
  | ldm | stm | ldb | stb =>
    simp [encode, decodeWord, decodeTransfer, formatXK_eq_formatXYK]
  | sker | sknr =>
    simp [encode, decodeWord, decodeSkipReg]
  | addr | subr | mulr | divr | copy =>
    simp [encode, decodeWord, decodeArithReg]
  | selx =>
    simp [encode, decodeWord, formatK_eq_formatXYK]

/-- A word is made of its three bytes (R81). -/
theorem wordOfBytes_wordBytes (w : InstrWord) :
    wordOfBytes (w.extractLsb' 16 8) (w.extractLsb' 8 8) (w.extractLsb' 0 8) = w := by
  apply BitVec.eq_of_toNat_eq
  have hw := w.isLt
  simp only [wordOfBytes_toNat, BitVec.extractLsb'_toNat, Nat.shiftRight_eq_div_pow]
  omega

/-- The bytes of a word, followed by any others, decode as the word does and leave the others. -/
theorem decodeBytes_wordBytes {w : InstrWord} {i : Instr} (h : decodeWord w = .ok i) (rest : List Byte) :
    decodeBytes (wordBytes w ++ rest) = .ok (i, rest) := by
  simp only [wordBytes, List.cons_append, List.nil_append, decodeBytes, wordOfBytes_wordBytes, h]

theorem Instr.wellFormed_eq_true (i : Instr) : i.wellFormed = true := by
  open Laws.EncodingFitsRow in
  cases i with
  | halt m | seti m | jump m | addx m | subx m | call m => exact wf_m m rfl
  | loadi x n | skei x n | skni x n | addi x n | subi x n | muli x n | divi x n => exact wf_xn x n rfl
  | ldm x | stm x | ldb x | stb x => exact wf_x x rfl
  | sker x y | sknr x y | addr x y | subr x y | mulr x y | divr x y | copy x y => exact wf_xy x y rfl
  | prtz | prtd | inln | ret => rfl
  | prtn n => exact (Laws.EncodingFitsRow.prtn n).1
  | putc b => exact (Laws.EncodingFitsRow.putc b).1
  | selx k => exact (Laws.EncodingFitsRow.selx k).1

/-- Settles O1: operand fields bound their operands, and decoding undoes encoding. -/
theorem encodedInstructionDecodesBack : Obligations.EncodedInstructionDecodesBack := fun i rest =>
  ⟨i.wellFormed_eq_true, decodeBytes_wordBytes (decodeWord_encode i) rest⟩

/-- Settles O6: the decoder computes each. -/
theorem sampleWordsDecodeAsWritten : Obligations.SampleWordsDecodeAsWritten :=
  ⟨rfl, rfl, rfl, rfl, rfl, rfl, rfl, rfl, rfl, rfl, rfl, rfl, rfl, rfl⟩

end Sys2Proof
end

section
/-! PROOFS. The ignored bits (30_encoding.md R84, R89). -/

namespace Sys2Proof

/-! ### A word without its ignored bits -/

/-- Clearing the `b` bits above the lowest `c` keeps the parts above and below them. -/
theorem and_not_range {a b c : Nat} (w : BitVec (a + b + c)) :
    w &&& ~~~ (0#a ++ BitVec.allOnes b ++ 0#c) = w.extractLsb' (b + c) a ++ 0#b ++ w.extractLsb' 0 c := by
  have hw : w = w.extractLsb' (b + c) a ++ w.extractLsb' c b ++ w.extractLsb' 0 c := by
    rw [BitVec.extractLsb'_append_extractLsb'_eq_extractLsb' (Nat.add_comm b c),
      BitVec.extractLsb'_append_extractLsb'_eq_extractLsb' (Nat.zero_add c).symm, BitVec.extractLsb'_eq_self]
  conv_lhs => rw [hw]
  simp only [BitVec.not_append, BitVec.not_allOnes, BitVec.not_zero, BitVec.and_append, BitVec.and_allOnes,
    BitVec.and_zero]

theorem and_not_range_toNat {a b c : Nat} (w : BitVec (a + b + c)) :
    (w &&& ~~~ (0#a ++ BitVec.allOnes b ++ 0#c)).toNat =
      w.toNat / 2 ^ (b + c) * 2 ^ (b + c) + w.toNat % 2 ^ c := by
  have ha : w.toNat / 2 ^ (b + c) < 2 ^ a := by
    rw [Nat.div_lt_iff_lt_mul (Nat.two_pow_pos _), ← Nat.pow_add, ← Nat.add_assoc]
    exact w.isLt
  rw [Nat.pow_add] at ha ⊢
  rw [and_not_range, BitVec.toNat_append, ← Nat.shiftLeft_add_eq_or_of_lt (BitVec.isLt _), BitVec.toNat_append,
    ← Nat.shiftLeft_add_eq_or_of_lt (BitVec.isLt _)]
  simp only [BitVec.extractLsb'_toNat, Nat.shiftRight_eq_div_pow, Nat.shiftLeft_eq, BitVec.toNat_ofNat,
    Nat.zero_mod, Nat.pow_zero, Nat.div_one, Nat.add_zero, Nat.mod_eq_of_lt ha, Nat.mul_assoc, Nat.pow_add]

section
variable (w : InstrWord)

theorem and_not_ignored_none : w &&& ~~~ 0x000000 = w := BitVec.and_allOnes

theorem and_not_ignored_xk : (w &&& ~~~ 0x000FF0).toNat = w.toNat / 4096 * 4096 + w.toNat % 16 :=
  and_not_range_toNat (a := 12) (b := 8) (c := 4) w

theorem and_not_ignored_xyk : (w &&& ~~~ 0x0000F0).toNat = w.toNat / 256 * 256 + w.toNat % 16 :=
  and_not_range_toNat (a := 16) (b := 4) (c := 4) w

theorem and_not_ignored_k : (w &&& ~~~ 0x00FFF0).toNat = w.toNat / 65536 * 65536 + w.toNat % 16 :=
  and_not_range_toNat (a := 8) (b := 12) (c := 4) w

theorem and_not_ignored_z : (w &&& ~~~ 0x00FFFF).toNat = w.toNat / 65536 * 65536 :=
  (and_not_range_toNat (a := 8) (b := 16) (c := 0) w).trans (by simp [Nat.mod_one])

theorem and_not_ignored_nnn : (w &&& ~~~ 0x000FFF).toNat = w.toNat / 4096 * 4096 :=
  (and_not_range_toNat (a := 12) (b := 12) (c := 0) w).trans (by simp [Nat.mod_one])

theorem and_not_ignored_putc : (w &&& ~~~ 0x000F00).toNat = w.toNat / 4096 * 4096 + w.toNat % 256 :=
  and_not_range_toNat (a := 12) (b := 4) (c := 8) w
end

/-! ### Encoding what was decoded -/

/-- Encoding the decoded instruction gives the word with its ignored bits 0: in each row of R91 the formats on one
side, the ignored bits on the other, are parts of the number `w`. -/
theorem encode_of_decodeWord_ok {w : InstrWord} {i : Instr} (h : decodeWord w = .ok i) :
    encode i = w &&& ~~~ i.row.ignored := by
  apply BitVec.eq_of_toNat_eq
  unfold decodeWord decodeTransfer decodePrint decodeSkipReg decodeArithReg at h
  repeat' split at h
  all_goals cases h
  all_goals
    simp only [encode, Instr.row, idToNibble_nibbleToId, and_not_ignored_none, and_not_ignored_xk,
      and_not_ignored_xyk, and_not_ignored_nnn, and_not_ignored_putc, and_not_ignored_z, and_not_ignored_k,
      formatM_toNat, formatXN_toNat, formatXK_toNat, formatXYK_toNat, formatZ_toNat, formatK_toNat,
      BitVec.toNat_setWidth, fieldOP_toNat, fieldX_toNat, fieldY_toNat, fieldMMMM_toNat, fieldNNN_toNat,
      fieldK_toNat, BitVec.reduceToNat] at *
    omega

theorem encode_injective {i j : Instr} (h : encode i = encode j) : i = j :=
  Except.ok.inj ((decodeWord_encode i).symm.trans (h ▸ decodeWord_encode j))

/-! ### Words that agree outside the ignored bits -/

/-- No bit of the mask column of R91 is ignored. -/
theorem Instr.row_mask_and_not_ignored (i : Instr) : i.row.mask &&& ~~~ i.row.ignored = i.row.mask := by
  cases i <;> simp only [Instr.row] <;> decide

/-- Two words that are alike once the bits of `m` are set are alike once they are cleared. -/
theorem and_not_eq_of_or_eq {v w m : InstrWord} (h : v ||| m = w ||| m) : v &&& ~~~ m = w &&& ~~~ m := by
  have key (u : InstrWord) : (u ||| m) &&& ~~~ m = u &&& ~~~ m := by
    simp [BitVec.and_or_distrib_right]
  rw [← key v, h, key w]

/-- A word that agrees with `w` outside the ignored bits of the row that `w` selects decodes to the same
instruction: it selects that row, and its instruction has the same encoding. -/
theorem decodeWord_of_or_ignored_eq {v w : InstrWord} {i : Instr} (hw : decodeWord w = .ok i)
    (h : v ||| i.row.ignored = w ||| i.row.ignored) : decodeWord v = .ok i := by
  have hclear := and_not_eq_of_or_eq h
  have hmask : v &&& i.row.mask = w &&& i.row.mask := by
    rw [← i.row_mask_and_not_ignored, BitVec.and_comm i.row.mask, ← BitVec.and_assoc, hclear, BitVec.and_assoc]
  have hsel : v &&& i.row.mask = i.row.pattern := hmask.trans ((wordSelectsRowByMatchAndMask w i).mpr ⟨i, hw, rfl⟩)
  obtain ⟨j, hv, hrow⟩ := (wordSelectsRowByMatchAndMask v i).mp hsel
  have henc : encode j = encode i := by
    rw [encode_of_decodeWord_ok hv, encode_of_decodeWord_ok hw, hrow, hclear]
  rw [hv, encode_injective henc]

/-- Settles O4. -/
theorem ignoredBitsChangeNothing : Obligations.IgnoredBitsChangeNothing := fun _ _ hw =>
  ⟨encode_of_decodeWord_ok hw, fun _ => decodeWord_of_or_ignored_eq hw⟩

end Sys2Proof
end

section
/-! PROOFS. The invariant of every step (10_state.md sections 4 to 6, 60_exceptions.md section 2). -/

namespace Sys2Proof.Machine

/-! ### The two halves of the invariant -/

/-- The half of the invariant that does not speak of halting, for a `pc` of at most `pcMax`. -/
structure State.Bounded (pcMax : Nat) (s : State) : Prop where
  mem : s.mem.wf = true
  cfg : s.cfg.wf = true
  sp : s.sp ≤ s.cfg.stackCapacity
  stk : ∀ a ∈ s.stk, a.toNat ≤ 65536
  pc : s.pc.toNat ≤ pcMax

/-- The halt registers of a state that has not halted (10_state.md R32, R34). -/
structure State.Running (s : State) : Prop where
  halted : s.halted = false
  cause : s.haltCause = .none

theorem State.Inv.bounded {s : State} (h : s.Inv) : s.Bounded 65539 :=
  ⟨h.mem, h.cfg, h.sp, h.stk, h.pc⟩

theorem State.Inv.running {s : State} (h : s.Inv) (hh : s.halted = false) : s.Running :=
  ⟨hh, Decidable.not_not.mp (mt h.halt.mpr (by simp [hh]))⟩

theorem State.Bounded.mono {a b : Nat} (hab : a ≤ b) {s : State} (h : s.Bounded a) : s.Bounded b :=
  { h with pc := h.pc.trans hab }

theorem State.Bounded.congr {b : Nat} {s u : State} (h : s.Bounded b) (hmem : u.mem = s.mem) (hcfg : u.cfg = s.cfg)
    (hstk : u.stk = s.stk) (hpc : u.pc = s.pc) : u.Bounded b where
  mem := hmem ▸ h.mem
  cfg := hcfg ▸ h.cfg
  sp := by rw [State.sp, hstk, hcfg]; exact h.sp
  stk := hstk ▸ h.stk
  pc := hpc ▸ h.pc

/-- The four causes that are no fatal error's (10_state.md R34). -/
theorem ErrorKind.cause_ne (e : ErrorKind) :
    e.cause ≠ .none ∧ e.cause ≠ .haltInstr ∧ e.cause ≠ .fetchEnd ∧ e.cause ≠ .interrupt := by
  cases e <;> decide

theorem ErrorKind.ne_cause (e : ErrorKind) :
    .none ≠ e.cause ∧ .haltInstr ≠ e.cause ∧ .fetchEnd ≠ e.cause ∧ .interrupt ≠ e.cause := by
  cases e <;> decide

theorem ErrorKind.cause_injective : Function.Injective ErrorKind.cause := by
  intro e f
  cases e <;> cases f <;> simp [ErrorKind.cause]

/-- Of a state that has not halted the invariant says no more than its bounds. -/
theorem State.Bounded.inv_of_running {s : State} (h : s.Bounded 65539) (hr : s.Running) : s.Inv where
  mem := h.mem
  cfg := h.cfg
  sp := h.sp
  stk := h.stk
  pc := h.pc
  halt := by simp [hr.halted, hr.cause]
  interrupt := by simp [hr.cause]
  fetchEnd := by simp [hr.cause]
  error e := by simp [hr.cause, e.ne_cause]

/-- A halt that is no fatal error: its cause and exit code must go together. -/
theorem State.Bounded.haltWith_inv {s : State} (h : s.Bounded 65539) {c : HaltCause} {code : BitVec 16}
    (hc : c ≠ .none) (hi : c = .interrupt → code = 0) (hf : c = .fetchEnd → code = statusOf .fetchEnd)
    (he : ∀ e : ErrorKind, c ≠ e.cause) : (s.haltWith c code).Inv where
  mem := h.mem
  cfg := h.cfg
  sp := h.sp
  stk := h.stk
  pc := h.pc
  halt := by simp [hc]
  interrupt := hi
  fetchEnd := hf
  error e hce := absurd hce (he e)

/-- A fatal error: the record is 3 below `pc`, and the word is what memory holds there. -/
theorem State.Bounded.raise_inv {s : State} (h : s.Bounded 65539) (hpc : 3 ≤ s.pc.toNat) (e : ErrorKind) :
    (s.raise e).Inv where
  mem := h.mem
  cfg := h.cfg
  sp := h.sp
  stk := h.stk
  pc := h.pc
  halt := by simp [e.cause_ne]
  interrupt := by simp [e.cause_ne]
  fetchEnd := by simp [e.cause_ne]
  error f hf := by
    obtain rfl := ErrorKind.cause_injective hf
    have hsub : (s.pc - 3).toNat + 3 = s.pc.toNat := by bv_omega
    exact ⟨rfl, hsub, rfl⟩

/-! ### Instructions and steps -/

theorem State.Bounded.skipIf {s : State} (h : s.Bounded 65536) (c : Bool) : (s.skipIf c).Bounded 65539 := by
  rw [State.skipIf_eq]
  refine { h with pc := ?_ }
  have hpc := h.pc
  rw [State.setPc_pc, State.skipIf_pc]
  split
  · bv_omega
  · omega

/-- CALL, with room on the call stack and a return address inside its bound. -/
theorem State.Bounded.pushReturn_setPc {s : State} (h : s.Bounded 65536) (hroom : s.sp < s.cfg.stackCapacity)
    {p : PcWord} (hp : p.toNat ≤ 65539) : ((s.pushReturn s.pc).setPc p).Bounded 65539 := by
  refine { h with sp := ?_, stk := ?_, pc := hp }
  · rw [State.setPc_sp, State.pushReturn_sp]
    exact hroom
  · intro a ha
    rcases List.mem_append.mp ha with ha | ha
    · exact h.stk a ha
    · exact List.mem_singleton.mp ha ▸ h.pc

/-- RET: the popped entry is inside the bound of return addresses. -/
theorem State.Bounded.dropReturn_setPc {s : State} {b : Nat} (h : s.Bounded b) {p : PcWord}
    (hp : s.stk = s.stk.dropLast ++ [p]) : (s.dropReturn.setPc p).Bounded 65539 := by
  refine { h with sp := ?_, stk := fun a ha => h.stk a (List.mem_of_mem_dropLast ha), pc := ?_ }
  · rw [State.setPc_sp, State.dropReturn_sp]
    exact (Nat.sub_le _ _).trans h.sp
  · have hmem : p ∈ s.stk := by rw [hp]; simp
    exact (h.stk p hmem).trans (by decide)

/-- `s` is at dispatch, where `pc` is at least 3 and at most 65,536. -/
theorem exec_inv {i : Instr} {s t : State} (h : s.Bounded 65536) (hr : s.Running) (hpc : 3 ≤ s.pc.toNat)
    (hexec : exec i s = .next t) : t.Inv := by
  have hb : s.Bounded 65539 := h.mono (by decide)
  have hkept {u : State} (hu : u.Bounded 65539) (hh : u.halted = s.halted) (hc : u.haltCause = s.haltCause) :
      u.Inv := hu.inv_of_running ⟨hh.trans hr.halted, hc.trans hr.cause⟩
  rcases exec_next_cases hexec with ⟨m, -, rfl⟩ | ⟨e, -, rfl⟩ | ⟨p, rfl, hp⟩ | ⟨c, rfl⟩ | ⟨hroom, m, rfl⟩ |
    ⟨p, hp, rfl⟩ | ⟨_, _, rfl⟩ | ⟨_, _, rfl⟩ | ⟨_, rfl⟩ | ⟨_, rfl⟩ | ⟨_, rfl⟩ | ⟨cells, lines, hcells, -, rfl⟩
  · exact hb.haltWith_inv (by decide) (by simp) (by simp) (by simp [ErrorKind.ne_cause])
  · exact hb.raise_inv hpc e
  · exact hkept { hb with pc := show p.toNat ≤ 65539 by omega } rfl rfl
  · exact hkept (h.skipIf c) (by rw [State.skipIf_eq]; rfl) (by rw [State.skipIf_eq]; rfl)
  · have hm := m.isLt
    exact hkept (h.pushReturn_setPc hroom (by rw [addrToPc_toNat]; omega)) rfl rfl
  · exact hkept (h.dropReturn_setPc hp) rfl rfl
  -- the writes of registers, index bank and output
  iterate 5 exact hkept (hb.congr (by simp) (by simp) (by simp) (by simp)) (by simp) (by simp)
  · exact hkept { hb with mem := Memory.writeCells_wf hb.mem hcells } rfl rfl

theorem State.Bounded.passBoundary {s : State} {b : Nat} (h : s.Bounded b) : s.passBoundary.Bounded b :=
  h.congr rfl rfl rfl rfl

/-- Passing the boundary and advancing `pc` leaves the fetched state inside the bounds of dispatch. -/
theorem State.Inv.atDispatch_bounded {s : State} (h : s.Inv) (hf : s.Fetches) : s.atDispatch.Bounded 65536 := by
  obtain ⟨-, -, hbound⟩ := hf
  exact { h.bounded with pc := by rw [State.atDispatch_pc_toNat hbound]; exact hbound }

theorem State.Fetches.three_le_pc {s : State} (hf : s.Fetches) : 3 ≤ s.atDispatch.pc.toNat := by
  obtain ⟨-, -, hbound⟩ := hf
  rw [State.atDispatch_pc_toNat hbound]
  exact Nat.le_add_left 3 _

/-- Settles O54: each of the things a step can do keeps the invariant. -/
theorem stepKeepsTheInvariant : Obligations.StepKeepsTheInvariant := by
  intro s t h hstep
  rcases step_cases s with ⟨-, e⟩ | ⟨-, -, e⟩ | ⟨-, -, -, e⟩ | ⟨hf, -, e⟩ | ⟨i, ⟨hf, -⟩, e⟩
  · cases hstep.symm.trans e
  · cases hstep.symm.trans e
    exact h.bounded.passBoundary.haltWith_inv (c := .interrupt) (by decide) (fun _ => rfl) (by simp)
      (by simp [ErrorKind.ne_cause])
  · cases hstep.symm.trans e
    exact h.bounded.passBoundary.haltWith_inv (c := .fetchEnd) (by decide) (by simp) (fun _ => rfl)
      (by simp [ErrorKind.ne_cause])
  · cases hstep.symm.trans e
    exact ((h.atDispatch_bounded hf).mono (by decide)).raise_inv hf.three_le_pc .decode
  · have ⟨hhalted, _, _⟩ := hf
    have hrunning : s.atDispatch.Running := ⟨hhalted, (h.running hhalted).cause⟩
    exact exec_inv (h.atDispatch_bounded hf) hrunning hf.three_le_pc (e.symm.trans hstep)

end Sys2Proof.Machine
end

section
/-! PROOFS. Which instruction may change what (10_state.md sections 2 to 7, 20_memory.md section 1). -/

namespace Sys2Proof.Machine

/-! ### Fatal errors of an instruction -/

/-- The conditions of 60_exceptions.md R172 to R174 are those under which the instruction raises the error. -/
theorem exec_of_errorOf {s : State} {i : Instr} {e : ErrorKind} (h : s.errorOf i = some e) :
    exec i s = .next (s.raise e) := by
  cases i with
  | divi x n =>
    obtain ⟨hn, rfl⟩ : n = 0 ∧ ErrorKind.runtime = e := by simpa [State.errorOf] using h
    exact execDivi_of_zero x s hn
  | divr x y =>
    obtain ⟨hy, rfl⟩ : s.reg y = 0 ∧ ErrorKind.runtime = e := by simpa [State.errorOf] using h
    exact execDivr_of_zero x hy
  | call m =>
    obtain ⟨hfull, rfl⟩ : s.cfg.stackCapacity ≤ s.sp ∧ ErrorKind.overflow = e := by simpa [State.errorOf] using h
    exact execCall_of_full m (Nat.not_lt.mpr hfull)
  | ret =>
    obtain ⟨hempty, rfl⟩ : s.sp = 0 ∧ ErrorKind.underflow = e := by simpa [State.errorOf] using h
    exact execRet_of_empty hempty
  | _ => cases h

/-! ### What each instruction writes when it raises no error -/

/-- The parts of the state that the rules of 40_control.md to 44_arithmetic.md write. -/
def State.writesOf (s : State) : Instr → May
  | .halt _ => { halt := True }
  | .jump _ | .skei _ _ | .skni _ _ | .sker _ _ | .sknr _ _ => { pc := True }
  | .call _ | .ret => { pc := True, stk := True }
  | .loadi x _ | .ldb x | .addi x _ | .subi x _ | .muli x _ | .divi x _ | .addr x _ | .subr x _ | .mulr x _
  | .divr x _ | .copy x _ => { regs := (· = x) }
  | .ldm x => { regs := (· ≤ x) }
  | .stm x => { bytes := fun a => ∃ r, r ≤ x ∧ a = s.elemAddr r }
  | .stb _ => { bytes := (· = s.cur.toNat) }
  | .seti _ | .addx _ | .subx _ => { slots := (· = s.sel) }
  | .selx _ => { sel := True }
  | .prtz | .prtn _ | .putc _ | .prtd => { out := True }
  | .inln => { lines := True, bytes := fun a => s.cur.toNat ≤ a ∧ a < 65536 }

theorem State.frame_setRegsUpTo (s : State) (last : RegId) (f : RegId → Word) :
    Frame { regs := (· ≤ last) } s (s.setRegsUpTo last f) := by
  constructor <;> simp +contextual

theorem State.frame_setMem (s : State) {m : Memory} {p : Nat → Prop} (h : ∀ a, ¬ p a → m.read a = s.mem.read a) :
    Frame { bytes := p } s (s.setMem m) :=
  { Frame.refl _ s with bytes := h }

theorem frame_execStm (x : RegId) (s : State) :
    Frame { bytes := fun a => ∃ r, r ≤ x ∧ a = s.elemAddr r } s
      (s.setMem (s.mem.writeCells ((regsUpTo x).map fun r => (s.elemAddr r, wordToByte (s.reg r))))) := by
  refine s.frame_setMem fun a ha => Memory.read_writeCells_other _ _ _ fun c hc hca => ha ?_
  obtain ⟨r, hr, rfl⟩ := List.mem_map.mp hc
  exact ⟨r, mem_regsUpTo.mp hr, hca.symm⟩

theorem frame_execStb (x : RegId) (s : State) :
    Frame { bytes := (· = s.cur.toNat) } s (s.setMem (s.mem.write s.cur.toNat (wordToByte (s.reg x)))) :=
  s.frame_setMem fun a ha => (Memory.read_write _ _ a _).trans (if_neg ha)

theorem frame_execInln (s : State) (text : Line) (lines : List Line) :
    Frame { lines := True, bytes := fun a => s.cur.toNat ≤ a ∧ a < s.cur.toNat + min text.length (65536 - s.cur.toNat) }
      s ({ s with inLines := lines }.setMem
        (s.mem.writeCells (cellsFrom s.cur.toNat (text.take s.room)))) := by
  refine { Frame.refl _ s with lines := (absurd trivial ·), bytes := fun a ha => ?_ }
  refine Memory.read_writeCells_other _ _ _ fun c hc hca => ha ?_
  have hmem := cellsFrom_mem c hc
  rw [List.length_take, State.room, Nat.min_comm, hca] at hmem
  exact hmem

theorem Frame.mono_bytes {m : May} {p : Nat → Prop} {s t : State} (h : Frame m s t) (hp : ∀ a, m.bytes a → p a) :
    Frame { m with bytes := p } s t :=
  { h with bytes := fun a ha => h.bytes a (mt (hp a) ha) }

/-- An instruction raises its error, or changes no more than its rule writes. -/
theorem exec_frame {i : Instr} {s t : State} (h : exec i s = .next t) :
    (∃ e, s.errorOf i = some e ∧ t = s.raise e) ∨ (s.errorOf i = none ∧ Frame (s.writesOf i) s t) := by
  cases herr : s.errorOf i with
  | some e =>
    cases h.symm.trans (exec_of_errorOf herr)
    exact .inl ⟨e, rfl, rfl⟩
  | none =>
    refine .inr ⟨rfl, ?_⟩
    cases i with
    | halt => cases h; exact s.frame_haltWith _ _
    | jump => cases h; exact s.frame_setPc _
    | skei | skni | sker | sknr => cases h; exact s.frame_skipIf _
    | call m =>
      have hroom : s.sp < s.cfg.stackCapacity := by simpa [State.errorOf] using herr
      cases h.symm.trans (execCall_of_room m hroom)
      exact s.frame_pushReturn_setPc _ _
    | ret =>
      rcases execRet_cases s with ⟨p, -, e⟩ | ⟨hempty, -⟩
      · cases h.symm.trans e
        exact s.frame_dropReturn_setPc p
      · simp [State.errorOf, hempty] at herr
    | loadi | ldb | addi | subi | muli | addr | subr | mulr | copy => cases h; exact s.frame_setReg _ _
    | divi x n =>
      cases h
      exact s.frame_divideInto x (by simpa [State.errorOf] using herr)
    | divr x y =>
      cases h
      exact s.frame_divideInto x (by simpa [State.errorOf] using herr)
    | ldm => cases h; exact s.frame_setRegsUpTo _ _
    | stm x => cases h; exact frame_execStm x s
    | stb x => cases h; exact frame_execStb x s
    | seti | addx | subx => cases h; exact s.frame_setCur _
    | selx => cases h; exact s.frame_setSel _
    | prtz | prtn | putc | prtd => cases h; exact s.frame_emit _
    | inln =>
      rcases execInln_cases s with ⟨e, -⟩ | ⟨text, lines, -, e⟩
      · cases h.symm.trans e
      · cases h.symm.trans e
        exact (frame_execInln s text lines).mono_bytes fun a ha => by have := s.cur.isLt; omega

/-- Error or not, an instruction changes no more than its rule writes and the halt and fault registers. -/
theorem exec_frame_or_halt {i : Instr} {s t : State} (h : exec i s = .next t) :
    Frame { s.writesOf i with halt := True, fault := True } s t := by
  rcases exec_frame h with ⟨e, -, rfl⟩ | ⟨-, hf⟩
  · exact { Frame.refl _ s with halt := (absurd trivial ·), fault := (absurd trivial ·) }
  · exact { hf with halt := (absurd trivial ·), fault := (absurd trivial ·) }

/-! ### The writers of each part -/

theorem State.destinations_of_writesOf {s : State} {i : Instr} {r : RegId} (h : (s.writesOf i).regs r) :
    destinations i r := by
  cases i <;> exact h

theorem State.slot_writer {s : State} {i : Instr} {j : SlotId} (h : (s.writesOf i).slots j) :
    j = s.sel ∧ ∃ m, i = .seti m ∨ i = .addx m ∨ i = .subx m := by
  cases i with
  | seti m => exact ⟨h, m, .inl rfl⟩
  | addx m => exact ⟨h, m, .inr (.inl rfl)⟩
  | subx m => exact ⟨h, m, .inr (.inr rfl)⟩
  | _ => exact h.elim

theorem State.sel_writer {s : State} {i : Instr} (h : (s.writesOf i).sel) : ∃ k, i = .selx k := by
  cases i with
  | selx k => exact ⟨k, rfl⟩
  | _ => exact h.elim

theorem State.bytes_writer {s : State} {i : Instr} {a : Nat} (h : (s.writesOf i).bytes a) :
    (∃ x r, i = .stm x ∧ r ≤ x ∧ a = s.elemAddr r) ∨ (∃ x, i = .stb x ∧ a = s.cur.toNat) ∨
      (i = .inln ∧ s.cur.toNat ≤ a ∧ a < 65536) := by
  cases i with
  | stm x =>
    obtain ⟨r, hr, ha⟩ := h
    exact .inl ⟨x, r, rfl, hr, ha⟩
  | stb x => exact .inr (.inl ⟨x, rfl, h⟩)
  | inln => exact .inr (.inr ⟨rfl, h⟩)
  | _ => exact h.elim

theorem State.stk_writer {s : State} {i : Instr} (h : (s.writesOf i).stk) : (∃ m, i = .call m) ∨ i = .ret := by
  cases i with
  | call m => exact .inl ⟨m, rfl⟩
  | ret => exact .inr rfl
  | _ => exact h.elim

theorem State.pc_writer {s : State} {i : Instr} (h : (s.writesOf i).pc) :
    (∃ m, i = .jump m) ∨ (∃ m, i = .call m) ∨ i = .ret ∨ (∃ x n, i = .skei x n) ∨ (∃ x n, i = .skni x n) ∨
      (∃ x y, i = .sker x y) ∨ ∃ x y, i = .sknr x y := by
  cases i with
  | jump | call | ret | skei | skni | sker | sknr => simp
  | _ => exact h.elim

/-- Settles O40, by the frame of the instruction. -/
theorem registersChangeOnlyAsDestinations : Obligations.RegistersChangeOnlyAsDestinations := fun _ _ _ r h hne =>
  State.destinations_of_writesOf (not_imp_comm.mp ((exec_frame_or_halt h).regs r) hne)

/-- Settles O41, by the frame of the instruction. -/
theorem indexBankChangesOnlyByItsInstructions : Obligations.IndexBankChangesOnlyByItsInstructions := fun _ _ _ h =>
  have hf := exec_frame_or_halt h
  ⟨fun j hne => State.slot_writer (not_imp_comm.mp (hf.slots j) hne),
    fun hne => State.sel_writer (not_imp_comm.mp hf.sel hne)⟩

/-- Settles O42, by the frame of the instruction. -/
theorem memoryChangesOnlyByStores : Obligations.MemoryChangesOnlyByStores := fun _ _ _ a h hne =>
  State.bytes_writer (not_imp_comm.mp ((exec_frame_or_halt h).bytes a) hne)

/-- Settles O43, by the frame of the instruction. -/
theorem stackAndPcChangeOnlyByControlTransfer : Obligations.StackAndPcChangeOnlyByControlTransfer := fun _ _ _ h =>
  have hf := exec_frame_or_halt h
  ⟨fun hne => State.stk_writer (not_imp_comm.mp hf.stk hne), fun hne => State.pc_writer (not_imp_comm.mp hf.pc hne)⟩

end Sys2Proof.Machine
end

section
/-! PROOFS. The step and the events of a boundary (60_exceptions.md sections 2 to 5). -/

namespace Sys2Proof.Machine

/-! ### The boundary and the dispatch -/

/-- Settles O8: the dispatch state is `atDispatch`. -/
theorem stepRunsTheDecodedInstruction : Obligations.StepRunsTheDecodedInstruction := by
  intro s i hruns
  have ⟨⟨_, _, hbound⟩, _⟩ := hruns
  exact ⟨s.atDispatch, step_of_runs hruns, State.atDispatch_pc_toNat hbound, rfl, rfl⟩

/-- Settles O10: the step is `haltWith` at the passed boundary. -/
theorem interruptRequestHalts : Obligations.InterruptRequestHalts := fun s hhalted hirq =>
  ⟨_, step_of_irq hhalted hirq, rfl, rfl, rfl, s.frame_passBoundary_haltWith _ _⟩

/-! ### Fatal errors -/

/-- The conditions of R172 to R174 read nothing that the dispatch changes. -/
theorem State.errorOf_atDispatch (s : State) (i : Instr) : s.atDispatch.errorOf i = s.errorOf i := by
  cases i <;> rfl

theorem State.errorAhead_of_ok {s : State} {i : Instr} (h : decodeWord s.fetchWord = .ok i) :
    s.errorAhead = s.errorOf i := by
  rw [State.errorAhead, h]

theorem State.errorAhead_of_error {s : State} {r : DecodeReject} (h : decodeWord s.fetchWord = .error r) :
    s.errorAhead = some .decode := by
  rw [State.errorAhead, h]

theorem State.Runs.errorAhead_halt {s : State} {m : BitVec 16} (h : s.Runs (.halt m)) : s.errorAhead = none :=
  State.errorAhead_of_ok h.2

/-- The step that meets a fatal error is `raise` at dispatch. -/
theorem step_of_errorAhead {s : State} {e : ErrorKind} (hf : s.Fetches) (h : s.errorAhead = some e) :
    step s = .next (s.atDispatch.raise e) := by
  cases hd : decodeWord s.fetchWord with
  | error r =>
    obtain rfl : ErrorKind.decode = e := Option.some.inj ((State.errorAhead_of_error hd).symm.trans h)
    exact step_of_illegal hf hd
  | ok i =>
    rw [step_of_runs ⟨hf, hd⟩]
    exact exec_of_errorOf (by rw [State.errorOf_atDispatch, ← State.errorAhead_of_ok hd, h])

/-- Settles O13: the step is `raise` at dispatch, which records the fetch address and the word. -/
theorem fatalErrorsArePrecise : Obligations.FatalErrorsArePrecise := by
  intro s e hf herr
  obtain ⟨haddr, hword⟩ := s.atDispatch_raise_record e
  have hstep := step_of_errorAhead hf herr
  obtain ⟨-, -, hbound⟩ := hf
  exact ⟨_, hstep, haddr, hword, rfl, rfl, rfl, State.atDispatch_pc_toNat hbound,
    s.frame_atDispatch_raise e⟩

/-! ### The terminal events -/

theorem State.halt_writer {s : State} {i : Instr} (h : (s.writesOf i).halt) : ∃ m, i = .halt m := by
  cases i with
  | halt m => exact ⟨m, rfl⟩
  | _ => exact h.elim

/-- What a step does to `halted` and `halt_cause`: an observed interrupt, the implicit halt, a fatal error, HALT, or
none of these. -/
theorem step_halt_cases {s t : State} (h : step s = .next t) :
    (s.irqNow = true ∧ t.halted = true ∧ t.haltCause = .interrupt) ∨
    (s.irqNow = false ∧ 65536 < s.pc.toNat + 3 ∧ t.halted = true ∧ t.haltCause = .fetchEnd) ∨
    (∃ e, s.Fetches ∧ s.errorAhead = some e ∧ t.halted = true ∧ t.haltCause = e.cause) ∨
    (∃ m, s.Runs (.halt m) ∧ t.halted = true ∧ t.haltCause = .haltInstr) ∨
    (s.Fetches ∧ s.errorAhead = none ∧ (∀ m, decodeWord s.fetchWord ≠ .ok (.halt m)) ∧ t.halted = false ∧
      t.haltCause = s.haltCause) := by
  rcases step_cases s with ⟨-, e⟩ | ⟨-, hi, e⟩ | ⟨-, hi, hp, e⟩ | ⟨hf, ⟨r, hd⟩, e⟩ | ⟨i, hruns, e⟩
  · cases h.symm.trans e
  · cases h.symm.trans e
    exact .inl ⟨hi, rfl, rfl⟩
  · cases h.symm.trans e
    exact .inr (.inl ⟨hi, hp, rfl, rfl⟩)
  · cases h.symm.trans e
    exact .inr (.inr (.inl ⟨.decode, hf, State.errorAhead_of_error hd, rfl, rfl⟩))
  · have ⟨hf, hd⟩ := hruns
    have hexec : exec i s.atDispatch = .next t := e.symm.trans h
    have hahead : s.errorAhead = s.atDispatch.errorOf i :=
      (State.errorAhead_of_ok hd).trans (s.errorOf_atDispatch i).symm
    rcases exec_frame hexec with ⟨e, herr, rfl⟩ | ⟨herr, hframe⟩
    · exact .inr (.inr (.inl ⟨e, hf, hahead.trans herr, rfl, rfl⟩))
    by_cases hw : (s.atDispatch.writesOf i).halt
    · obtain ⟨m, rfl⟩ := State.halt_writer hw
      cases hexec
      exact .inr (.inr (.inr (.inl ⟨m, hruns, rfl, rfl⟩)))
    · have hno (m : BitVec 16) : decodeWord s.fetchWord ≠ .ok (.halt m) := by
        intro hm
        obtain rfl : i = .halt m := Except.ok.inj (hd.symm.trans hm)
        exact hw trivial
      obtain ⟨hhalted, -, hcause⟩ := hframe.halt hw
      have ⟨hrunning, _, _⟩ := hf
      exact .inr (.inr (.inr (.inr ⟨hf, hahead.trans herr, hno, hhalted.trans hrunning, hcause⟩)))

/-- Settles O14, event by event. -/
theorem haltFlagIsSetByTheSevenEventsOnly : Obligations.HaltFlagIsSetByTheSevenEventsOnly := by
  refine ⟨rfl, fun s => ⟨step_of_halted, fun t h => ?_⟩⟩
  rcases step_halt_cases h with ⟨hi, ht, -⟩ | ⟨-, hp, ht, -⟩ | ⟨e, -, he, ht, -⟩ | ⟨m, ⟨-, hd⟩, ht, -⟩ |
    ⟨⟨-, hi, hp⟩, he, hm, ht, -⟩
  · simp [hi, ht]
  · simp [hp, ht]
  · simp [he, ht]
  · simp [hd, ht]
  · simp [hi, Nat.not_lt.mpr hp, he, hm, ht]

/-- Settles O15, event by event. -/
theorem haltCauseNamesItsEvent : Obligations.HaltCauseNamesItsEvent := by
  intro s t hnone h
  rcases step_halt_cases h with ⟨hi, -, hc⟩ | ⟨hi, hp, -, hc⟩ | ⟨e, hf, he, -, hc⟩ | ⟨m, hruns, -, hc⟩ |
    ⟨hf, he, hm, -, hc⟩
  · simp [hc, hi, State.Runs, State.Fetches, ErrorKind.ne_cause]
  · have hp' : ¬ s.pc.toNat + 3 ≤ 65536 := Nat.not_le.mpr hp
    simp [hc, hi, hp, hp', State.Runs, State.Fetches, ErrorKind.ne_cause]
  · have ⟨_, hi, hp⟩ := hf
    have hno (m : BitVec 16) : ¬ s.Runs (.halt m) := fun hruns =>
      Option.some_ne_none e (he.symm.trans hruns.errorAhead_halt)
    simp [hc, he, hf, hi, Nat.not_lt.mpr hp, hno, ErrorKind.cause_ne, ErrorKind.cause_injective.eq_iff]
  · have ⟨⟨_, hi, hp⟩, _⟩ := hruns
    have hex : ∃ m, s.Runs (.halt m) := ⟨m, hruns⟩
    simp [hc, hi, Nat.not_lt.mpr hp, hruns.errorAhead_halt, hex, ErrorKind.ne_cause]
  · have ⟨_, hi, hp⟩ := hf
    simp [hc, hnone, he, hm, hi, Nat.not_lt.mpr hp, State.Runs, ErrorKind.ne_cause]

/-! ### Where there is a step -/

/-- The step of a state that has not halted, unless it stops at an INLN without a line. -/
theorem step_next_or_held {s : State} (h : s.halted = false) :
    (∃ t, step s = .next t) ∨ (s.Runs .inln ∧ s.NoLine ∧ step s = .fault .heldOnInput) := by
  rcases step_cases s with ⟨hh, -⟩ | ⟨-, -, e⟩ | ⟨-, -, -, e⟩ | ⟨-, -, e⟩ | ⟨i, hruns, e⟩
  · simp [h] at hh
  · exact .inl ⟨_, e⟩
  · exact .inl ⟨_, e⟩
  · exact .inl ⟨_, e⟩
  · rcases exec_next_or_held i s.atDispatch with ⟨t, ht⟩ | ⟨rfl, hno, hheld⟩
    · exact .inl ⟨t, e.trans ht⟩
    · exact .inr ⟨hruns, hno, e.trans hheld⟩

/-- Settles O16. -/
theorem stepExistsUnlessHaltedOrHeld : Obligations.StepExistsUnlessHaltedOrHeld := fun _ hhalted hline =>
  (step_next_or_held hhalted).resolve_right fun ⟨hruns, hno, _⟩ => hline ⟨hruns, hno⟩

theorem execInln_of_noLine {s : State} (h : s.NoLine) : execInln s = .fault .heldOnInput := by
  rw [execInln, s.takeLine_eq_none.mpr h]

/-- Settles O34: the step is held in no other way, and a supplied line is there for the INLN at dispatch. -/
theorem inlnIsHeldExactlyWithoutALine : Obligations.InlnIsHeldExactlyWithoutALine := by
  refine fun s => ⟨⟨fun hheld => ?_, fun ⟨hruns, hno⟩ => ?_⟩, fun hruns text => ?_⟩
  · have hhalted : s.halted = false := by
      rw [← Bool.not_eq_true]
      intro hh
      cases hheld.symm.trans (step_of_halted hh)
    rcases step_next_or_held hhalted with ⟨t, ht⟩ | ⟨hruns, hno, -⟩
    · cases hheld.symm.trans ht
    · exact ⟨hruns, hno⟩
  · exact (step_of_runs hruns).trans (execInln_of_noLine (s := s.atDispatch) hno)
  · have hruns' : (s.supplyLine text).Runs .inln := hruns
    obtain ⟨line, rest, hlines⟩ : ∃ line rest, (s.supplyLine text).atDispatch.inLines = line :: rest :=
      List.exists_cons_of_ne_nil (by simp)
    have ⟨⟨hrunning, _, _⟩, _⟩ := hruns
    exact ⟨_, (step_of_runs hruns').trans (execInln_of_line hlines), hrunning⟩

/-! ### The streams and the settings over a step -/

/-- What every instruction does to the streams, and that it keeps the settings and the `irq` levels. -/
theorem exec_streams {i : Instr} {s t : State} (h : exec i s = .next t) :
    t.cfg = s.cfg ∧ s.out <+: t.out ∧ t.inLines <:+ s.inLines ∧ t.inEnded = s.inEnded ∧ t.irq = s.irq := by
  rcases exec_next_cases h with ⟨_, -, rfl⟩ | ⟨_, -, rfl⟩ | ⟨_, rfl, -⟩ | ⟨c, rfl⟩ | ⟨-, _, rfl⟩ | ⟨_, -, rfl⟩ |
    ⟨_, _, rfl⟩ | ⟨_, _, rfl⟩ | ⟨_, rfl⟩ | ⟨_, rfl⟩ | ⟨_, rfl⟩ | ⟨_, _, -, hlines, rfl⟩
  case inr.inr.inr.inl => rw [State.skipIf_eq]; simp
  all_goals simp [*]

/-- Settles O44: of what a step can do, only an instruction touches the streams. -/
theorem streamsAndSettingsOverAStep : Obligations.StreamsAndSettingsOverAStep := by
  intro s t h
  rcases step_cases s with ⟨-, e⟩ | ⟨-, -, e⟩ | ⟨-, -, -, e⟩ | ⟨-, -, e⟩ | ⟨i, -, e⟩
  · cases h.symm.trans e
  · cases h.symm.trans e; exact ⟨rfl, List.prefix_rfl, List.suffix_rfl, rfl, rfl⟩
  · cases h.symm.trans e; exact ⟨rfl, List.prefix_rfl, List.suffix_rfl, rfl, rfl⟩
  · cases h.symm.trans e; exact ⟨rfl, List.prefix_rfl, List.suffix_rfl, rfl, rfl⟩
  · exact exec_streams (s := s.atDispatch) (e.symm.trans h)

end Sys2Proof.Machine
end

section
/-! PROOFS. The word under the next fetch (20_memory.md sections 2 and 6). -/

namespace Sys2Proof.Machine

/-- The word stored at `pc` is the word fetched. -/
theorem State.storeWordAtPc_fetchWord (s : State) (w : InstrWord) : (s.storeWordAtPc w).fetchWord = w := by
  simp [State.fetchWord_eq_wordOfBytes, State.storeWordAtPc, Memory.read_writeCells_cellsFrom, wordBytes,
    wordOfBytes_wordBytes]

/-- The host's numbering goes through the decoder. -/
theorem decodeWord_of_decodeTableWord {nbits w : Nat} {i : Instr} (h : decodeTableWord nbits w = some i) :
    decodeWord (tableWord nbits w) = .ok i := by
  simp only [decodeTableWord, wordBytes, decodeBytes, wordOfBytes_wordBytes] at h
  cases hd : decodeWord (tableWord nbits w) with
  | ok j => simpa [hd] using h
  | error r => simp [hd] at h

/-- Settles O9: storing the word changes nothing of the boundary tests. -/
theorem storedWordIsRunNext : Obligations.StoredWordIsRunNext := by
  intro s w hf hw
  have hfetch : (s.withFetchWord 24 w).fetchWord = tableWord 24 w := s.storeWordAtPc_fetchWord _
  refine ⟨?_, fun i hi => ?_⟩
  · rw [hfetch, tableWord, BitVec.toNat_ofNat, Nat.mod_mod, Nat.mod_eq_of_lt hw]
  · have hf' : (s.withFetchWord 24 w).Fetches := hf
    exact step_of_runs ⟨hf', by rw [hfetch, decodeWord_of_decodeTableWord hi]⟩

/-! ### Stores are seen by the next fetch -/

/-- Each of the three places of the fetched word holds the byte that memory holds there. -/
theorem State.fetchWord_bytes (s : State) {k : Nat} (hk : k < 3) :
    (wordBytes s.fetchWord)[k]? = some (s.mem.read (s.pc.toNat + k)) := by
  rw [State.fetchWord_eq_wordOfBytes, wordBytes_wordOfBytes]
  interval_cases k <;> rfl

theorem Memory.read_write_same (m : Memory) (a : Nat) (b : Byte) : (m.write a b).read a = b := by
  rw [Memory.read_write, if_pos rfl]

/-- STM: the element addresses are distinct, so each cell holds its own register's byte. -/
theorem State.read_stm (s : State) {x r : RegId} (hr : r ≤ x) :
    (s.mem.writeCells ((regsUpTo x).map fun r => (s.elemAddr r, wordToByte (s.reg r)))).read (s.elemAddr r) =
      wordToByte (s.reg r) := by
  apply Memory.read_writeCells_mem
  · rw [List.map_map]
    exact (regsUpTo_nodup x).map fun _ _ h => State.elemAddr_inj s h
  · exact List.mem_map_of_mem (mem_regsUpTo.mpr hr)

/-- INLN: the bytes of the line that fit stand from `cur` on. -/
theorem State.read_inln (s : State) (text : Line) {j : Nat} (hj : j < min text.length (65536 - s.cur.toNat)) :
    text[j]? = some ((s.mem.writeCells (cellsFrom s.cur.toNat (text.take s.room))).read (s.cur.toNat + j)) := by
  obtain ⟨hlen, hroom⟩ := Nat.lt_min.mp hj
  rw [Memory.read_writeCells_cellsFrom, if_pos (Nat.le_add_right _ _), Nat.add_sub_cancel_left]
  simp [State.room, hlen, hroom]

/-- Settles O50: the fetch reads memory as the store left it. -/
theorem storeIsSeenByTheNextFetch : Obligations.StoreIsSeenByTheNextFetch := by
  intro s t p k hk
  refine ⟨fun x h hp => ?_, fun x r h hr hp => ?_, fun text rest j hlines h hj hroom hp => ?_⟩
  all_goals rw [State.fetchWord_bytes _ hk, State.setPc_pc, State.setPc_mem, hp]
  · cases h
    rw [State.setMem_mem, Memory.read_write_same]
  · cases h
    rw [State.setMem_mem, s.read_stm hr]
  · cases h.symm.trans (execInln_of_line hlines)
    exact (s.read_inln text (Nat.lt_min.mpr ⟨hj, by omega⟩)).symm

end Sys2Proof.Machine
end

section
/-! PROOFS. Register-memory transfer, ADDX and SUBX, COPY (41_register_memory.md, 42_index_bank.md,
44_arithmetic.md). -/

namespace Sys2Proof.Machine

/-! ### LDM, STM, LDB, STB -/

/-- Settles O24: LDM is `setRegsUpTo` of the zero-extended cells. -/
theorem ldmLoadsOneCellPerRegister : Obligations.LdmLoadsOneCellPerRegister := by
  refine fun x s => ⟨_, rfl, fun r hr => ⟨s.elemAddr_eq r, ?_⟩, s.frame_setRegsUpTo x _⟩
  rw [State.setRegsUpTo_reg, if_pos hr, byteToWord_toNat]

/-- Settles O25: the element addresses are distinct, so each cell keeps the byte of its own register. -/
theorem stmStoresOneCellPerRegister : Obligations.StmStoresOneCellPerRegister := by
  refine fun x s => ⟨_, rfl, fun r hr => ⟨s.elemAddr_eq r, ?_⟩, frame_execStm x s⟩
  rw [State.setMem_mem, s.read_stm hr, wordToByte_toNat]

/-- Settles O26: LDB is `setReg` of the zero-extended cell, STB one `Memory.write`. -/
theorem ldbAndStbMoveOneCell : Obligations.LdbAndStbMoveOneCell := by
  refine fun x s => ⟨⟨_, rfl, ?_, s.frame_setReg x _⟩, ⟨_, rfl, ?_, frame_execStb x s⟩⟩
  · rw [State.setReg_reg_same, byteToWord_toNat]
  · rw [State.setMem_mem, Memory.read_write_same, wordToByte_toNat]

/-! ### ADDX, SUBX -/

/-- SUBX after ADDX with the same operand writes back what the selected slot held. -/
theorem execSubx_setCur_add (m : BitVec 16) (s : State) : execSubx m (s.setCur (s.cur + m)) = .next s := by
  rw [execSubx, State.setCur_cur, BitVec.add_sub_cancel, State.setCur_setCur, State.setCur_self]

/-- Settles O28: both are `setCur`, of the sum and of the difference. -/
theorem addxAndSubxWrapModulo65536 : Obligations.AddxAndSubxWrapModulo65536 := by
  refine fun m s => ⟨⟨_, rfl, ?_, s.frame_setCur _, execSubx_setCur_add m s⟩, ⟨_, rfl, ?_, s.frame_setCur _⟩⟩
  · rw [State.setCur_slot_sel, BitVec.toNat_add]
    rfl
  · have hcur := s.cur.isLt
    have hm := m.isLt
    rw [State.setCur_slot_sel, BitVec.toNat_sub]
    change _ = ((s.cur.toNat : Int) - m.toNat) % 65536
    omega

/-! ### COPY -/

/-- Settles O39: COPY is `setReg` of the masked value. -/
theorem copyFollowsItsMaskSetting : Obligations.CopyFollowsItsMaskSetting := by
  refine fun x y s => ⟨_, rfl, fun hmask => ?_, fun hmask => ?_, s.frame_setReg x _⟩
  · rw [State.setReg_reg_same, hmask, copyMasked_twelve]
  · rw [State.setReg_reg_same, hmask, copyMasked_eight]

end Sys2Proof.Machine
end

section
/-! PROOFS. Input and output: PRTZ, PRTN, PRTD, INLN (43_io.md). -/

namespace Sys2Proof.Machine

theorem State.cur_add_room (s : State) : s.cur.toNat + s.room = 65536 := by
  have := s.cur.isLt
  rw [State.room]
  omega

/-! ### PRTZ, PRTN -/

/-- The cells before the first zero cell among `n` cells: each is read in its place and is not zero, and after them
the range ends or a zero cell stands. -/
theorem Memory.readRange_takeWhile (m : Memory) (a n : Nat) {bs : List Byte}
    (h : (m.readRange a n).takeWhile (fun b => decide (b ≠ 0)) = bs) :
    (∀ k, k < bs.length → bs[k]? = some (m.read (a + k)) ∧ m.read (a + k) ≠ 0) ∧ bs.length ≤ n ∧
      (bs.length = n ∨ m.read (a + bs.length) = 0) := by
  induction n generalizing a bs with
  | zero =>
    subst h
    simp [Memory.readRange]
  | succ n ih =>
    by_cases hzero : m.read a = 0
    · obtain rfl : [] = bs := by simpa [Memory.readRange, hzero] using h
      simp [hzero]
    · obtain ⟨rest, hrest⟩ : ∃ rest, (m.readRange (a + 1) n).takeWhile (fun b => decide (b ≠ 0)) = rest := ⟨_, rfl⟩
      obtain rfl : m.read a :: rest = bs := by
        rw [← h, Memory.readRange, List.takeWhile_cons_of_pos (by simpa using hzero), hrest]
      obtain ⟨hread, hle, hend⟩ := ih (a + 1) hrest
      simp only [Nat.add_right_comm a 1] at hread hend
      refine ⟨fun k hk => ?_, Nat.succ_le_succ hle, ?_⟩
      · cases k with
        | zero => exact ⟨rfl, hzero⟩
        | succ k => exact hread k (Nat.lt_of_succ_lt_succ hk)
      · exact hend.imp (congrArg Nat.succ) id

/-- Settles O29: PRTZ is `emit` of the cells before the first zero cell. -/
theorem prtzPrintsUpToZeroOrMemoryEnd : Obligations.PrtzPrintsUpToZeroOrMemoryEnd := by
  intro s
  obtain ⟨hread, hle, hend⟩ := s.mem.readRange_takeWhile s.cur.toNat s.room rfl
  have hroom := s.cur_add_room
  exact ⟨_, _, rfl, s.emit_out _, hread, by omega, hend.imp_left (by omega), s.frame_emit _⟩

/-- Settles O30: PRTN is `emit` of a range of cells. -/
theorem prtnPrintsItsCountClipped : Obligations.PrtnPrintsItsCountClipped := by
  refine fun n s => ⟨_, _, rfl, s.emit_out _, Memory.readRange_length _ _ _, fun k hk => ?_, s.frame_emit _⟩
  rw [Memory.readRange_length] at hk
  rw [Memory.readRange_getElem?, if_pos hk]

/-! ### PRTD -/

/-- `decimal` writes the digits of the value, most significant first and with no leading zero. -/
theorem decimal_digits (v : Byte) :
    ∃ ds : List Nat, decimal v = ds.map digitByte ∧ (∀ d ∈ ds, d ≤ 9) ∧
      ds.foldl (fun u d => 10 * u + d) 0 = v.toNat ∧
      (ds.length = 1 ∨ ∃ d rest, ds = d :: rest ∧ rest ≠ [] ∧ d ≠ 0) := by
  have hv := v.isLt
  unfold decimal
  split
  · refine ⟨[v.toNat / 100, v.toNat / 10 % 10, v.toNat % 10], rfl, ?_, ?_, .inr ⟨_, _, rfl, by simp, by omega⟩⟩
    · simp; omega
    · simp only [List.foldl]; omega
  · split
    · refine ⟨[v.toNat / 10, v.toNat % 10], rfl, ?_, ?_, .inr ⟨_, _, rfl, by simp, by omega⟩⟩
      · simp; omega
      · simp only [List.foldl]; omega
    · refine ⟨[v.toNat], rfl, ?_, ?_, .inl rfl⟩
      · simp; omega
      · simp only [List.foldl]; omega

/-- Settles O32: PRTD is `emit` of the decimal numeral. -/
theorem prtdPrintsTheDecimalNumeral : Obligations.PrtdPrintsTheDecimalNumeral := by
  intro s
  obtain ⟨ds, hdec, hdigit, hvalue, hlead⟩ := decimal_digits (s.mem.read s.cur.toNat)
  refine ⟨_, ds, rfl, ?_, hdigit, hvalue, hlead, s.frame_emit _⟩
  rw [State.emit_out, hdec]
  rfl

/-! ### INLN -/

/-- Settles O33, with a line available and at end of input. -/
theorem inlnStoresTheLineClipped : Obligations.InlnStoresTheLineClipped := fun s =>
  ⟨fun text rest hlines =>
    ⟨_, execInln_of_line hlines, rfl, fun _ hk => s.read_inln text hk, frame_execInln s text rest⟩,
    fun hnone hended => ⟨s, execInln_of_end hnone hended, Frame.refl _ s⟩⟩

end Sys2Proof.Machine
end

section
/-! PROOFS. What no instruction can read (10_state.md sections 3, 5 and 6, 20_memory.md section 1). -/

namespace Sys2Proof.Machine

/-! ### Operations with branches, under a change `f` of a part they do not read -/

section
variable {f : State → State} {s : State}

theorem State.skipIf_comm (h : (f s).advance = f s.advance) (c : Bool) : (f s).skipIf c = f (s.skipIf c) := by
  cases c with
  | false => rfl
  | true => exact h

theorem State.divideInto_comm {r : RegId} {q : Word} (hreg : (f s).reg r = s.reg r)
    (hset : ∀ v, (f s).setReg r v = f (s.setReg r v)) (hraise : q = 0 → (f s).raise .runtime = f (s.raise .runtime)) :
    (f s).divideInto r q = f (s.divideInto r q) := by
  rcases s.divideInto_cases r q with ⟨hq, e⟩ | ⟨hq, e⟩
  · rw [e, (f s).divideInto_of_ne_zero r hq, hreg, hset]
  · rw [e, (f s).divideInto_of_zero r hq, hraise hq]

theorem execInln_comm (hlines : (f s).inLines = s.inLines) (hended : (f s).inEnded = s.inEnded)
    (hcur : (f s).cur = s.cur) (hmem : (f s).mem = s.mem)
    (hset : ∀ rest m, { f s with inLines := rest }.setMem m = f ({ s with inLines := rest }.setMem m)) :
    execInln (f s) = onNext f (execInln s) := by
  cases hs : s.inLines with
  | cons text rest =>
    rw [execInln_of_line (hlines.trans hs), execInln_of_line hs, hset, hmem, hcur, State.room, hcur]
    rfl
  | nil =>
    cases he : s.inEnded with
    | true =>
      rw [execInln_of_end (hlines.trans hs) (hended.trans he), execInln_of_end hs he]
      rfl
    | false =>
      rw [execInln_of_noLine ⟨hlines.trans hs, hended.trans he⟩, execInln_of_noLine ⟨hs, he⟩]
      rfl

theorem execCall_comm {m : BitVec 16} (hstk : (f s).stk = s.stk) (hcfg : (f s).cfg = s.cfg)
    (hpush : ((f s).pushReturn (f s).pc).setPc (addrToPc m) = f ((s.pushReturn s.pc).setPc (addrToPc m)))
    (hraise : s.cfg.stackCapacity ≤ s.sp → (f s).raise .overflow = f (s.raise .overflow)) :
    execCall m (f s) = onNext f (execCall m s) := by
  have hsp : (f s).sp = s.sp := congrArg List.length hstk
  rcases execCall_cases m s with ⟨hroom, e⟩ | ⟨hfull, e⟩
  · rw [e, execCall_of_room m (by rwa [hsp, hcfg]), hpush]
    rfl
  · rw [e, execCall_of_full m (by rwa [hsp, hcfg, Nat.not_lt]), hraise hfull]
    rfl

theorem execRet_comm (hstk : (f s).stk = s.stk) (hpop : ∀ p, (f s).dropReturn.setPc p = f (s.dropReturn.setPc p))
    (hraise : s.sp = 0 → (f s).raise .underflow = f (s.raise .underflow)) :
    execRet (f s) = onNext f (execRet s) := by
  have hsp : (f s).sp = s.sp := congrArg List.length hstk
  rcases execRet_cases s with ⟨p, hp, e⟩ | ⟨hempty, e⟩
  · rw [e, execRet_of_stk (hstk.trans hp), hpop]
    rfl
  · rw [e, execRet_of_empty (hsp.trans hempty), hraise hempty]
    rfl

end

/-! ### Another call stack -/

/-- Settles O46, instruction by instruction. -/
theorem callStackIsNeverReadAsData : Obligations.CallStackIsNeverReadAsData := by
  intro i s stk hcall hret
  cases i with
  | call m => exact absurd rfl (hcall m)
  | ret => exact absurd rfl hret
  | skei | skni | sker | sknr =>
    exact congrArg _ (State.skipIf_comm (f := fun t => { t with stk := stk }) rfl _)
  | divi | divr =>
    exact congrArg _ (State.divideInto_comm (f := fun t => { t with stk := stk }) rfl (fun _ => rfl) fun _ => rfl)
  | inln =>
    exact execInln_comm (f := fun t => { t with stk := stk }) rfl rfl rfl rfl fun _ _ => rfl
  | _ => rfl

/-! ### Other halt and fault registers -/

/-- The state with any values in the halt and fault registers. -/
def State.withHalt (b : Bool) (e : BitVec 16) (c : HaltCause) (a : PcWord) (w : InstrWord) (s : State) : State :=
  { s with halted := b, exitCode := e, haltCause := c, faultAddr := a, faultWord := w }

section
variable (b : Bool) (e : BitVec 16) (c : HaltCause) (a : PcWord) (w : InstrWord)

/-- Without HALT and without an error the halt and fault registers are not touched, so their values go through. -/
theorem exec_withHalt {i : Instr} {s : State} (hhalt : ∀ m, i ≠ .halt m) (herr : s.errorOf i = none) :
    exec i (s.withHalt b e c a w) = onNext (·.withHalt b e c a w) (exec i s) := by
  cases i with
  | halt m => exact absurd rfl (hhalt m)
  | skei | skni | sker | sknr => exact congrArg _ (State.skipIf_comm (f := (·.withHalt b e c a w)) rfl _)
  | divi x n =>
    have hn : n ≠ 0 := by simpa [State.errorOf] using herr
    exact congrArg _ (State.divideInto_comm (f := (·.withHalt b e c a w)) rfl (fun _ => rfl) (absurd · hn))
  | divr x y =>
    have hy : s.reg y ≠ 0 := by simpa [State.errorOf] using herr
    exact congrArg _ (State.divideInto_comm (f := (·.withHalt b e c a w)) rfl (fun _ => rfl) (absurd · hy))
  | call m =>
    refine execCall_comm (f := (·.withHalt b e c a w)) rfl rfl rfl fun hfull => ?_
    simp [State.errorOf, Nat.not_lt.mpr hfull] at herr
  | ret =>
    refine execRet_comm (f := (·.withHalt b e c a w)) rfl (fun _ => rfl) fun hempty => ?_
    simp [State.errorOf, hempty] at herr
  | inln => exact execInln_comm (f := (·.withHalt b e c a w)) rfl rfl rfl rfl fun _ _ => rfl
  | _ => rfl

theorem State.errorOf_withHalt (s : State) (i : Instr) : (s.withHalt b e c a w).errorOf i = s.errorOf i := by
  cases i <;> rfl

theorem onNext_withHalt_idem (o : Host.Outcome State Fault Refusal) :
    onNext (·.withHalt b e c a w) (onNext (·.withHalt b e c a w) o) = onNext (·.withHalt b e c a w) o := by
  cases o <;> rfl

end

/-- Settles O47: HALT and an error overwrite those registers; every other instruction leaves them. -/
theorem haltAndFaultRegistersAreNeverRead : Obligations.HaltAndFaultRegistersAreNeverRead := by
  intro i s b e c a w
  change onNext (·.withHalt b e c a w) (exec i (s.withHalt b e c a w)) = onNext (·.withHalt b e c a w) (exec i s)
  cases herr : s.errorOf i with
  | some k =>
    rw [exec_of_errorOf herr, exec_of_errorOf ((s.errorOf_withHalt b e c a w i).trans herr)]
    rfl
  | none =>
    by_cases hhalt : ∃ m, i = .halt m
    · obtain ⟨m, rfl⟩ := hhalt
      rfl
    · rw [exec_withHalt b e c a w (not_exists.mp hhalt) herr, onNext_withHalt_idem]

/-! ### Another value in an unselected slot -/

/-- The state with `v` in slot `j`. -/
def State.setSlot (s : State) (j : SlotId) (v : Addr) : State := { s with idx := s.idx.set j v }

section
variable {s : State} {j : SlotId} (v : Addr)

theorem State.setSlot_cur (h : j ≠ s.sel) : (s.setSlot j v).cur = s.cur := by
  have hval : j.val ≠ s.sel.val := fun e => h (Fin.ext e)
  simp [State.cur, State.slot, State.setSlot, hval]

theorem State.setSlot_setCur (h : j ≠ s.sel) (u : Addr) : (s.setSlot j v).setCur u = (s.setCur u).setSlot j v := by
  have hval : j.val ≠ s.sel.val := fun e => h (Fin.ext e)
  simp only [State.setCur, State.setSlot]
  rw [Vector.set_comm _ _ hval]

theorem State.setSlot_elemAddr (h : j ≠ s.sel) : (s.setSlot j v).elemAddr = s.elemAddr := by
  funext i
  rw [State.elemAddr, State.setSlot_cur v h, State.elemAddr]

theorem State.setSlot_room (h : j ≠ s.sel) : (s.setSlot j v).room = s.room := by
  rw [State.room, State.setSlot_cur v h, State.room]

end

/-- Settles O45, instruction by instruction: all that the rules read of the index bank is `cur`. -/
theorem unselectedSlotsAreNeverRead : Obligations.UnselectedSlotsAreNeverRead := by
  intro i s j v h
  change exec i (s.setSlot j v) = onNext (·.setSlot j v) (exec i s)
  have hcur := State.setSlot_cur v h
  have helem := State.setSlot_elemAddr v h
  have hroom := State.setSlot_room v h
  cases i with
  | skei | skni | sker | sknr => exact congrArg _ (State.skipIf_comm (f := (·.setSlot j v)) rfl _)
  | divi | divr =>
    exact congrArg _ (State.divideInto_comm (f := (·.setSlot j v)) rfl (fun _ => rfl) fun _ => rfl)
  | inln => exact execInln_comm (f := (·.setSlot j v)) rfl rfl hcur rfl fun _ _ => rfl
  | seti => exact congrArg _ (State.setSlot_setCur v h _)
  | addx | subx =>
    simp only [exec, execAddx, execSubx, hcur, State.setSlot_setCur v h]
    rfl
  | ldm | stm =>
    simp only [exec, execLdm, execStm, helem]
    rfl
  | ldb | stb | prtd =>
    simp only [exec, execLdb, execStb, execPrtd, hcur]
    rfl
  | prtz | prtn =>
    simp only [exec, execPrtz, execPrtn, hcur, hroom]
    rfl
  | call => exact execCall_comm (f := (·.setSlot j v)) rfl rfl rfl fun _ => rfl
  | ret => exact execRet_comm (f := (·.setSlot j v)) rfl (fun _ => rfl) fun _ => rfl
  | _ => rfl

end Sys2Proof.Machine
end

section
/-! PROOFS. Memory (20_memory.md sections 1, 4 and 6; the model's canonical form, notes/assumptions/13.md). -/

namespace Sys2Proof.Machine

/-! ### The latest write -/

theorem Memory.writeCells_concat (m : Memory) (cells : List Host.Cell) (c : Host.Cell) :
    m.writeCells (cells ++ [c]) = (m.writeCells cells).write c.1 c.2 :=
  List.foldl_concat _ _ _ _

/-- Settles O48, by induction on the list of writes from its end: the last write is the first one found in the
reversed list. -/
theorem readReturnsTheLatestWrite : Obligations.ReadReturnsTheLatestWrite := by
  intro m cells a
  induction cells using List.reverseRecOn with
  | nil => rfl
  | append_singleton cells c ih =>
    rw [Memory.writeCells_concat, Memory.read_write, List.reverse_concat, List.find?_cons]
    by_cases h : a = c.1
    · simp [h]
    · have hc : decide (c.1 = a) = false := decide_eq_false (Ne.symm h)
      rw [if_neg h, ih, hc]

/-! ### Memories in canonical form that read alike -/

/-- In the canonical form from `lo` on, every address below `lo` reads as 0. -/
theorem Memory.read_of_lt {lo a : Nat} {m : Memory} (h : Memory.wfFrom lo m = true) (ha : a < lo) : m.read a = 0 :=
  m.read_eq_zero a fun c hc => by have := Memory.wfFrom_mem h c hc; omega

/-- The first entry is at the lowest address that does not read as 0. -/
theorem Memory.le_of_read_ne_zero {lo a k : Nat} {v : Byte} {m : Memory}
    (h : Memory.wfFrom lo ((k, v) :: m) = true) (ha : Memory.read ((k, v) :: m) a ≠ 0) : k ≤ a := by
  obtain ⟨-, hk, hv, hm⟩ := (Memory.wfFrom_cons lo k v m).mp h
  have hfrom : Memory.wfFrom k ((k, v) :: m) = true := (Memory.wfFrom_cons k k v m).mpr ⟨le_rfl, hk, hv, hm⟩
  exact Nat.le_of_not_lt fun hlt => ha (Memory.read_of_lt hfrom hlt)

theorem Memory.read_head_ne_zero {lo k : Nat} {v : Byte} {m : Memory} (h : Memory.wfFrom lo ((k, v) :: m) = true) :
    Memory.read ((k, v) :: m) k ≠ 0 := by
  obtain ⟨-, -, hv, -⟩ := (Memory.wfFrom_cons lo k v m).mp h
  rwa [Memory.read_cons, if_pos rfl]

/-- Two memories in canonical form that read alike are equal, by induction on the entries: their first entries are
at the same address and hold the same byte, and the rest reads alike. -/
theorem Memory.eq_of_read_eq {lo : Nat} {m n : Memory} (hm : Memory.wfFrom lo m = true)
    (hn : Memory.wfFrom lo n = true) (h : ∀ a, a < 65536 → m.read a = n.read a) : m = n := by
  have hlt {lo k : Nat} {v : Byte} {m : Memory} (hm : Memory.wfFrom lo ((k, v) :: m) = true) : k < 65536 :=
    (Memory.wfFrom_mem hm (k, v) (by simp)).2
  induction m generalizing lo n with
  | nil =>
    cases n with
    | nil => rfl
    | cons cell n => exact absurd (h _ (hlt hn)).symm (Memory.read_head_ne_zero hn)
  | cons cell m ih =>
    cases n with
    | nil => exact absurd (h _ (hlt hm)) (Memory.read_head_ne_zero hm)
    | cons cell' n =>
      obtain ⟨k, v⟩ := cell
      obtain ⟨k', v'⟩ := cell'
      obtain rfl : k = k' := by
        apply le_antisymm
        · exact Memory.le_of_read_ne_zero hm (h k' (hlt hn) ▸ Memory.read_head_ne_zero hn)
        · exact Memory.le_of_read_ne_zero hn (h k (hlt hm) ▸ Memory.read_head_ne_zero hm)
      obtain rfl : v = v' := by simpa [Memory.read_cons] using h k (hlt hm)
      obtain ⟨-, -, -, hm'⟩ := (Memory.wfFrom_cons lo k v m).mp hm
      obtain ⟨-, -, -, hn'⟩ := (Memory.wfFrom_cons lo k v n).mp hn
      rw [ih hm' hn' fun a ha => ?_]
      by_cases hak : a = k
      · rw [Memory.read_of_lt hm' (by omega), Memory.read_of_lt hn' (by omega)]
      · simpa [Memory.read_cons, hak] using h a ha

/-- Settles O49. -/
theorem memoryFormIsCanonical : Obligations.MemoryFormIsCanonical :=
  ⟨fun _ _ => Memory.writeCells_wf, fun _ _ => Memory.eq_of_read_eq⟩

end Sys2Proof.Machine
end

section
/-! PROOFS. Reset, launch and the exit statuses (10_state.md section 9, 20_memory.md section 8,
00_scope.md section 3). -/

namespace Sys2Proof.Machine

theorem State.reset_reg (r : RegId) : State.reset.reg r = 0 := by
  simp [State.reg, State.reset]

theorem State.reset_slot (j : SlotId) : State.reset.slot j = 0 := by
  simp [State.slot, State.reset]

/-- Settles O51: the fields of `State.reset`. -/
theorem resetHasTheStatedValues : Obligations.ResetHasTheStatedValues :=
  ⟨rfl, rfl, rfl, rfl, fun _ => rfl, State.reset_reg, State.reset_slot, rfl, rfl, rfl, rfl, rfl⟩

/-! ### Launches -/

theorem Launch.run_of_fits {l : Launch} (h : l.image.length ≤ 65536) : l.run = .next l.state := if_pos h

theorem Launch.run_of_too_long {l : Launch} (h : 65536 < l.image.length) : l.run = .refused .imageTooLong :=
  if_neg (Nat.not_le.mpr h)

/-- Settles O52, for an image that fits and one that does not. -/
theorem launchPlacesTheImage : Obligations.LaunchPlacesTheImage := fun l =>
  ⟨fun h => ⟨l.state, Launch.run_of_fits h, Memory.read_ofImage l.image, Memory.ofImage_wf h, rfl⟩,
    Launch.run_of_too_long⟩

/-- The launched state has not halted and its call stack is empty. -/
theorem Launch.state_inv {l : Launch} (hcfg : l.cfg.wf = true) (h : l.image.length ≤ 65536) : l.state.Inv :=
  State.Bounded.inv_of_running
    ⟨Memory.ofImage_wf h, hcfg, Nat.zero_le _, fun _ ha => absurd ha List.not_mem_nil, Nat.zero_le _⟩ ⟨rfl, rfl⟩

/-- `State.reset` is the launch of the empty image with the default settings. -/
theorem State.reset_eq_launch : State.reset = (Launch.mk Config.default [] [] true []).state := rfl

/-- Settles O53: reset is a launch, and a launch that gives a state has an image that fits. -/
theorem resetAndLaunchMeetTheInvariant : Obligations.ResetAndLaunchMeetTheInvariant := by
  refine ⟨State.reset_eq_launch ▸ Launch.state_inv rfl (Nat.zero_le _), fun l s hcfg hrun => ?_⟩
  by_cases h : l.image.length ≤ 65536
  · cases hrun.symm.trans (Launch.run_of_fits h)
    exact Launch.state_inv hcfg h
  · cases hrun.symm.trans (Launch.run_of_too_long (Nat.not_le.mp h))

/-! ### The exit statuses -/

/-- Whatever permutation the free value is, it keeps distinct causes apart. -/
theorem statusOf_injective : Function.Injective statusOf := by
  intro c d h
  have hcode : c.code.setWidth 16 = d.code.setWidth 16 := Config.statusCode.injective h
  have hcut := congrArg (BitVec.setWidth 3) hcode
  exact HaltCause.code_inj (by simpa using hcut)

/-- Settles O55. -/
theorem exitStatusesAreDistinct : Obligations.ExitStatusesAreDistinct := fun _ _ _ _ h => statusOf_injective h

end Sys2Proof.Machine
end
